-- ==== Sys2Proof/Word.lean ====
section
/-! DEFINITION. The word types of the core: widths only, no operations (00_scope.md section 6.1:
every value is an unsigned integer of stated width or a single bit). -/

namespace Sys2Proof

/-- A byte: an operand, a command or checksum word, a byte of TXBUF. -/
abbrev Byte := BitVec 8

/-- The 48-bit command word `CW` (30_encoding.md R45). -/
abbrev CommandWord := BitVec 48

/-- The 72-bit response word `RSP` (30_encoding.md R51). -/
abbrev ResponseWord := BitVec 72

/-- A serial word or the framed form of any packet word: 9 bits (10_state.md R13, 41_word_encoder.md R94). -/
abbrev Word9 := BitVec 9

/-- The content of a level register: 3 bits (10_state.md R11, decision D25). -/
abbrev Level := BitVec 3

/-- A bit sequence in stream order: the head is sent first (00_scope.md section 6.2). -/
abbrev Bits := List Bool

end Sys2Proof
end

