-- ==== Sys2Proof/Syntax.lean ====
section
/-! DEFINITION. The commands, one constructor per row of spec/opcode_table.json. -/

namespace Sys2Proof

/-- A command of the core. The bits the spec says are ignored are kept as operands, so that no bit
of an encoding is dropped by the decoder (assumption log 8); the meanings do not look at them. -/
inductive Instr where
  /-- SET (30_encoding.md R46). A SET whose mask is 0 is written RESEND: see `WellFormed`. -/
  | set (mask flags lightOp fanOp flameOp : Byte)
  /-- GET (30_encoding.md R47); `ignored` is `CW[39:0]`. -/
  | get (ignored : BitVec 40)
  /-- RESEND, the words of a SET whose mask is 0 (30_encoding.md R56); `ignored` is `CW[31:0]`. -/
  | resend (ignored : BitVec 32)
deriving DecidableEq, Repr

end Sys2Proof
end

