-- ==== Sys2Proof/WellFormed.lean ====
section
/-! DEFINITION. Which terms of `Instr` are the name of a command word. -/

namespace Sys2Proof

/-- Every operand value is legal (30_encoding.md R49: "Within a legal command no bit pattern is
illegal"). The one check picks the name of a word that two rows of the opcode table share: a SET
with mask 0 is RESEND (30_encoding.md R56, assumption log 7). -/
def Instr.wellFormed : Instr → Bool
  | .set mask _ _ _ _ => mask != 0
  | .get _ => true
  | .resend _ => true

end Sys2Proof
end

