-- ==== Sys2Proof/Decode.lean ====
section
/-! DEFINITION. The command decoder (30_encoding.md R45 to R49), total on the 48-bit words, and the
encoder. -/

namespace Sys2Proof

/-- Why a command word is rejected. -/
inductive DecodeError where
  /-- The opcode byte is neither 0x01 nor 0x02 (30_encoding.md R49); it carries that byte. -/
  | illegalOpcode (opcode : Byte)
deriving DecidableEq, Repr

/-- `CW[47:40]`, which alone selects the command (30_encoding.md R45). -/
def opcodeByte (cw : CommandWord) : Byte := cw.extractLsb' 40 8

/-- The opcode byte of SET and RESEND (30_encoding.md R45). -/
def opcodeSet : Byte := 0x01

/-- The opcode byte of GET (30_encoding.md R45). -/
def opcodeGet : Byte := 0x02

/-- A command word whose opcode byte is that of SET (30_encoding.md R46); the empty mask is read as
RESEND (R56). -/
def decodeSet (cw : CommandWord) : Instr :=
  if cw.extractLsb' 32 8 = (0 : Byte) then
    .resend (cw.extractLsb' 0 32)
  else
    .set (cw.extractLsb' 32 8) (cw.extractLsb' 24 8) (cw.extractLsb' 16 8)
      (cw.extractLsb' 8 8) (cw.extractLsb' 0 8)

/-- The command decoder (30_encoding.md R45, R49). -/
def decode (cw : CommandWord) : Except DecodeError Instr :=
  if opcodeByte cw = opcodeSet then .ok (decodeSet cw)
  else if opcodeByte cw = opcodeGet then .ok (.get (cw.extractLsb' 0 40))
  else .error (.illegalOpcode (opcodeByte cw))

/-- The command word of a command (30_encoding.md R46, R47, R56). -/
def encode : Instr → CommandWord
  | .set mask flags lightOp fanOp flameOp => opcodeSet ++ mask ++ flags ++ lightOp ++ fanOp ++ flameOp
  | .get ignored => opcodeGet ++ ignored
  | .resend ignored => opcodeSet ++ (0 : Byte) ++ ignored

/-- The command word whose bits the opcode table numbers as `w`: bits at or above `nbits` are 0. -/
def commandOfTableWord (nbits w : Nat) : CommandWord := BitVec.ofNat 48 (w % 2 ^ nbits)

/-- What the decoder reads from an opcode-table word: the command word is one 48-bit word, so the
table's numbering is `CW`'s own. -/
def decodeTableWord (nbits w : Nat) : Option Instr :=
  match decode (commandOfTableWord nbits w) with
  | .ok i => some i
  | .error _ => none

end Sys2Proof
end

