-- ==== Sys2Proof/Config.lean ====
section
/-! DEFINITION. What may differ between two instances of the core (00_scope.md R5), and the free
values: what the spec leaves to the implementation or the environment and gives no value. -/

namespace Sys2Proof

/-- `PARITY_MODE` (10_state.md K3, 43_frame_builder.md R110). -/
inductive ParityMode where
  /-- The number of set bits modulo 2: what the document defines, and the default (D13). -/
  | popcount
  /-- The open function `ALT_PARITY_FN` (D13). -/
  | alt
deriving DecidableEq, Repr

/-- The configuration record `CFG` of 10_state.md R10: the read-only registers K0 to K3 of R14,
sampled at reset and constant until the next one. -/
structure Cfg where
  /-- K0, `SERIAL[0]`. -/
  serial0 : Word9
  /-- K1, `SERIAL[1]`. -/
  serial1 : Word9
  /-- K2, `SERIAL[2]`. -/
  serial2 : Word9
  /-- K3, `PARITY_MODE`. -/
  parityMode : ParityMode
deriving DecidableEq, Repr

/-- `ALT_PARITY_FN` (00_scope.md R5, 43_frame_builder.md R110): a total function of the bit list,
which the spec leaves uninterpreted. A free value (assumption log 2). -/
opaque Config.altParityFn : List Bool → Bool

/-- The environment's answer to the `n`-th sampling of `env.radio_avail` for which the state lists
no answer (45_transmitter_interface.md R137, D17: a free input under no law). A free value
(assumption log 3). -/
opaque Config.radioAvailable : Nat → Bool

/-- How long the radio pauses, in hand-off `n` since reset, between emission `i` and the next; 0 is no
gap. "A model must not assume a gap or its absence" (93_implementation_defined.md U2,
45_transmitter_interface.md R140). A free value (assumption log 20). -/
opaque Config.emissionGap : Nat → Nat → Nat

end Sys2Proof
end

