-- ==== Sys2Proof/Machine/Registers.lean ====
section
/-! DEFINITION. The register records of the core and their reset values (10_state.md R11, R13, R20). -/

namespace Sys2Proof.Machine

/-- The eight fields, in the order of 10_state.md R11. -/
inductive Field where
  | pilot
  | light
  | thermostat
  | power
  | front
  | fan
  | aux
  | flame
deriving DecidableEq, Repr

/-- The record `ST` of 10_state.md R10 and R11: the eight field registers. -/
structure FieldRegs where
  /-- Field 0, `ST.PILOT`. -/
  pilot : Bool
  /-- Field 1, `ST.LIGHT`. -/
  light : Level
  /-- Field 2, `ST.THERMOSTAT`. -/
  thermostat : Bool
  /-- Field 3, `ST.POWER`. -/
  power : Bool
  /-- Field 4, `ST.FRONT`. -/
  front : Bool
  /-- Field 5, `ST.FAN`. -/
  fan : Level
  /-- Field 6, `ST.AUX`. -/
  aux : Bool
  /-- Field 7, `ST.FLAME`. -/
  flame : Level
deriving DecidableEq, Repr

/-- The document's default state, which the spec takes as the reset state (10_state.md R11, R20,
decision D11, assumption log 13). -/
def resetFields : FieldRegs where
  pilot := true
  light := 0
  thermostat := false
  power := false
  front := false
  fan := 0
  aux := false
  flame := 0

/-- The configuration that `State.reset` samples: `POPCOUNT`, the default of D13, and zero serial
words, which the spec leaves open (DESIGN CHOICE, assumption log 1). -/
def defaultCfg : Cfg where
  serial0 := 0
  serial1 := 0
  serial2 := 0
  parityMode := .popcount

end Sys2Proof.Machine
end

