-- ==== Sys2Proof/Machine/State.lean ====
section
/-! DEFINITION. The state of the core, its observed behaviour and the environment's coming moves, and
the reasons a step can stop. -/

namespace Sys2Proof.Machine

/-- The outcome of a command (60_exceptions.md R149). -/
inductive Status where
  | ok
  | validationError
  | transmitUnavailable
  | illegalCommand
deriving DecidableEq, Repr

/-- The snapshot of 10_state.md R23: the serial words and the field registers at one moment. -/
structure Snapshot where
  serial0 : Word9
  serial1 : Word9
  serial2 : Word9
  fields : FieldRegs
deriving DecidableEq, Repr

/-- A response as the record of 30_encoding.md R51 (its 72-bit form is `rspWord`, Machine/Flags.lean). -/
structure Response where
  status : Status
  errField : Byte
  errValue : Byte
  snapshot : Snapshot
deriving DecidableEq, Repr

/-- The output event `Transmit(buf, n)` (45_transmitter_interface.md R135). -/
structure Transmit where
  /-- The bytes of TXBUF in ascending address order (20_memory.md R30, R32). -/
  buf : List Byte
  /-- The repeat count (45_transmitter_interface.md R136). -/
  count : Byte
deriving DecidableEq, Repr

/-- What the host can do to the core (30_encoding.md R44, 70_reset_and_hazards.md R177). -/
inductive PortEvent where
  /-- One command word on the command port. -/
  | command (cw : CommandWord)
  /-- The reset event, with what the configuration interface holds when it is sampled (R170). -/
  | reset (cfg : Cfg)
deriving DecidableEq, Repr

/-- Everything the spec gives the machine (10_state.md R10, R13, R14, R21), the responses it has
given (R178), and the model's own fields for the environment's moves (assumption logs 3 and 4). -/
structure State where
  /-- `ST`, the eight field registers (10_state.md R11). -/
  fields : FieldRegs
  /-- `CFG`, the registers K0 to K3 (10_state.md R13, R14). -/
  cfg : Cfg
  /-- The output trace: `Transmit` events since reset, oldest first (10_state.md R21). -/
  trace : List Transmit
  /-- The responses given since reset, oldest first (70_reset_and_hazards.md R178). -/
  responses : List Response
  /-- MODEL's own: what the host will present, next first. -/
  port : List PortEvent
  /-- MODEL's own: the environment's answers to the next samplings of `env.radio_avail`. -/
  radioAnswers : List Bool
  /-- MODEL's own: how many samplings `Config.radioAvailable` has answered. -/
  radioDraws : Nat
deriving DecidableEq, Repr

/-- Why the model stops. No step raises a fault: "there is no stuck state, no hang and no fault that
stops the core" (70_reset_and_hazards.md R178). -/
inductive Fault where
  /-- Raised by `txbufRead` alone, for an address or width that 20_memory.md R31 says does not exist.
  Safe: a read that the spec rules out gives no value (assumption log 19). -/
  | noTxbufByte (addr width : Nat)
deriving DecidableEq, Repr

/-- Why a command is refused. No meaning of this model refuses. -/
inductive Refusal where
  /-- Raised by an arm of `exec` for a command that has no meaning yet; no arm does so. Safe. -/
  | notModelled (mnemonic : String)
deriving DecidableEq, Repr

/-- The core right after a reset that sampled `cfg` (70_reset_and_hazards.md R170), with no coming
event listed. -/
def State.resetWith (cfg : Cfg) : State where
  fields := resetFields
  cfg := cfg
  trace := []
  responses := []
  port := []
  radioAnswers := []
  radioDraws := 0

/-- The core right after reset, for the configuration `defaultCfg`. -/
def State.reset : State := State.resetWith defaultCfg

end Sys2Proof.Machine
end

