-- ==== Sys2Proof/Machine/Bits.lean ====
section
/-! DEFINITION. Words as bit sequences in stream order and bytes from them (00_scope.md sections
6.1 and 6.2, 20_memory.md R32). -/

namespace Sys2Proof.Machine

/-- `bits_N(v)`: the bits of `v` in stream order, the most significant first (00_scope.md section
6.2: `bits_N(v)[p] = v[N-1-p]`). -/
def streamBits {n : Nat} (v : BitVec n) : Bits := (List.range n).map fun p => v.getMsbD p

/-- The byte whose bits, most significant first, are the arguments (44_line_encoder.md R129). -/
def byteOfBits (b7 b6 b5 b4 b3 b2 b1 b0 : Bool) : Byte :=
  BitVec.ofBool b7 ++ BitVec.ofBool b6 ++ BitVec.ofBool b5 ++ BitVec.ofBool b4 ++
    BitVec.ofBool b3 ++ BitVec.ofBool b2 ++ BitVec.ofBool b1 ++ BitVec.ofBool b0

/-- Cuts a bit sequence into bytes, the first bit of each eight being its most significant
(44_line_encoder.md R129). Bits that do not fill a byte are dropped (assumption log 18: never the
case for a padded stream of 312 bits). -/
def bytesOfBits : Bits → List Byte
  | b7 :: b6 :: b5 :: b4 :: b3 :: b2 :: b1 :: b0 :: rest =>
    byteOfBits b7 b6 b5 b4 b3 b2 b1 b0 :: bytesOfBits rest
  | _ => []

/-- The bits of a byte sequence in the order a radio sends them: byte 0 first, each byte most
significant bit first (20_memory.md R32, 45_transmitter_interface.md R139). -/
def bitsOfBytes (bytes : List Byte) : Bits := bytes.flatMap streamBits

end Sys2Proof.Machine
end

