-- ==== Sys2Proof/Machine/Params.lean ====
section
/-! DEFINITION. The fixed constants of the protocol (00_scope.md R5, 10_state.md R14: "must not be
altered"). Their values are the document's, unaudited (93_implementation_defined.md U14, assumption
log 16). -/

namespace Sys2Proof.Machine

/-- K4, `ECC1_SEED` (10_state.md R14). -/
def ecc1Seed : BitVec 4 := 0xD

/-- K5, `ECC2_SEED` (10_state.md R14). -/
def ecc2Seed : BitVec 4 := 0x7

/-- K6, `REPEAT_COUNT` (10_state.md R14, 45_transmitter_interface.md R136). -/
def repeatCount : Byte := 5

/-- `LEVEL_MAX` (00_scope.md R5). -/
def levelMax : Byte := 6

/-- The number of idle symbols that end a frame (43_frame_builder.md R112). -/
def idleSymbols : Nat := 9

/-- `TXBUF_BYTES` (00_scope.md R5, 20_memory.md R30). -/
def txbufBytes : Nat := 39

/-- The padding bits after the stream's 308 (20_memory.md R33, decision D15, assumption log 11). -/
def padBits : Bits := [false, false, false, false]

/-- `err_field` of a response that reports no field (30_encoding.md R51). -/
def noErrField : Byte := 0xFF

/-- `err_value` of a response that reports no value (30_encoding.md R51). -/
def noErrValue : Byte := 0x00

end Sys2Proof.Machine
end

