-- ==== Sys2Proof/Machine/Checksum.lean ====
section
/-! DEFINITION. The Checksum Generator (42_checksum_generator.md). -/

namespace Sys2Proof.Machine

/-- The high nibble `c[7:4]` (42_checksum_generator.md section 1). -/
def highNibble (c : Byte) : BitVec 4 := c.extractLsb' 4 4

/-- The low nibble `c[3:0]` (42_checksum_generator.md section 1). -/
def lowNibble (c : Byte) : BitVec 4 := c.extractLsb' 0 4

/-- `v << 1` on a nibble, not truncated: 5 bits (42_checksum_generator.md R100, R106). -/
def shiftOut (v : BitVec 4) : BitVec 5 := v ++ (0 : BitVec 1)

/-- The part the two high nibbles share: `(hi ^ (hi << 1) ^ (lo << 1)) & 0xF`, computed over 5 bits
(42_checksum_generator.md R100, R101). -/
def highMix (hi lo : BitVec 4) : BitVec 4 :=
  ((hi.zeroExtend 5 ^^^ shiftOut hi ^^^ shiftOut lo) &&& 0xF).extractLsb' 0 4

/-- `Ecc1(c)` (42_checksum_generator.md R100): the seed is applied to the high nibble. -/
def ecc1 (c : Byte) : Byte :=
  (ecc1Seed ^^^ highMix (highNibble c) (lowNibble c)) ++ (highNibble c ^^^ lowNibble c)

/-- `Ecc2(c)` (42_checksum_generator.md R101): the seed is applied to the low nibble. -/
def ecc2 (c : Byte) : Byte :=
  highMix (highNibble c) (lowNibble c) ++ (highNibble c ^^^ lowNibble c ^^^ ecc2Seed)

end Sys2Proof.Machine
end

