-- ==== Sys2Proof/Machine/WordEncoder.lean ====
section
/-! DEFINITION. The Word Encoder (41_word_encoder.md): total on all register values (R96). -/

namespace Sys2Proof.Machine

/-- `Cmd1(ST)` (41_word_encoder.md R90). -/
def cmd1 (st : FieldRegs) : Byte :=
  BitVec.ofBool st.pilot ++ st.light ++ (0 : BitVec 2) ++ BitVec.ofBool st.thermostat ++
    BitVec.ofBool st.power

/-- `Cmd2(ST)` (41_word_encoder.md R91). -/
def cmd2 (st : FieldRegs) : Byte :=
  BitVec.ofBool st.front ++ st.fan ++ BitVec.ofBool st.aux ++ st.flame

/-- `Scratch12(c)` (41_word_encoder.md R92). -/
def scratch12 (c : Byte) : BitVec 12 := c ++ (0 : BitVec 4)

/-- The framed word of a command or checksum word: the first 9 bits of its scratch word
(41_word_encoder.md R95). -/
def framedWord (c : Byte) : Word9 := (scratch12 c).extractLsb' 3 9

/-- One entry of the packet: `(D[k], PIN[k])` of 41_word_encoder.md R94. -/
structure PacketWord where
  /-- `D[k]`, the 9 framed bits. -/
  data : Word9
  /-- `PIN[k]`, the bit list the parity is computed over. -/
  parityInput : Bits
deriving DecidableEq, Repr

/-- A serial word passes through unchanged; its parity is over its 9 bits (41_word_encoder.md R93,
43_frame_builder.md R111, decision D14, assumption log 12). -/
def serialPacketWord (v : Word9) : PacketWord where
  data := v
  parityInput := streamBits v

/-- A command or checksum word: framed bits of R95, parity over the whole scratch word
(43_frame_builder.md R111). -/
def bytePacketWord (c : Byte) : PacketWord where
  data := framedWord c
  parityInput := streamBits (scratch12 c)

/-- `PacketWords(ST)` (41_word_encoder.md R94). -/
def packetWords (cfg : Cfg) (st : FieldRegs) : List PacketWord :=
  [serialPacketWord cfg.serial0, serialPacketWord cfg.serial1, serialPacketWord cfg.serial2,
    bytePacketWord (cmd1 st), bytePacketWord (cmd2 st),
    bytePacketWord (ecc1 (cmd1 st)), bytePacketWord (ecc2 (cmd2 st))]

end Sys2Proof.Machine
end

