-- ==== Sys2Proof/Machine/Flags.lean ====
section
/-! DEFINITION. The core has no flags (10_state.md R16); what stands in their place is the status of a
command in its response. This file holds the status codes, the error kinds and the response word
(30_encoding.md R51, 60_exceptions.md R145 to R149). -/

namespace Sys2Proof.Machine

/-- The status codes (60_exceptions.md R149). -/
def statusCode : Status → Byte
  | .ok => 0x00
  | .validationError => 0x01
  | .transmitUnavailable => 0x02
  | .illegalCommand => 0x03

/-- The field number of a field (10_state.md R11): also its position in the mask and flags bytes. -/
def fieldNumber : Field → Nat
  | .pilot => 0
  | .light => 1
  | .thermostat => 2
  | .power => 3
  | .front => 4
  | .fan => 5
  | .aux => 6
  | .flame => 7

/-- The error kinds a command can raise (60_exceptions.md R146 to R148). -/
inductive CoreError where
  /-- `ValidationError`: a selected level operand above 6 (R146). -/
  | validation (field : Field) (value : Byte)
  /-- `TransmitUnavailable` (R147). -/
  | transmitUnavailable
  /-- `IllegalCommand` (R148). -/
  | illegalCommand (opcode : Byte)
deriving DecidableEq, Repr

/-- The status of an error kind (60_exceptions.md R146 to R148). -/
def errorStatus : CoreError → Status
  | .validation _ _ => .validationError
  | .transmitUnavailable => .transmitUnavailable
  | .illegalCommand _ => .illegalCommand

/-- `err_field` of an error kind (30_encoding.md R51). -/
def errorField : CoreError → Byte
  | .validation field _ => BitVec.ofNat 8 (fieldNumber field)
  | .transmitUnavailable => noErrField
  | .illegalCommand _ => noErrField

/-- `err_value` of an error kind (30_encoding.md R51). -/
def errorValue : CoreError → Byte
  | .validation _ value => value
  | .transmitUnavailable => noErrValue
  | .illegalCommand opcode => opcode

/-- The snapshot of a state (10_state.md R23). -/
def snapshotOf (s : State) : Snapshot where
  serial0 := s.cfg.serial0
  serial1 := s.cfg.serial1
  serial2 := s.cfg.serial2
  fields := s.fields

/-- The 72-bit response word (30_encoding.md R51). -/
def rspWord (r : Response) : ResponseWord :=
  statusCode r.status ++ r.errField ++ r.errValue ++ (0 : BitVec 5) ++
    r.snapshot.serial0 ++ r.snapshot.serial1 ++ r.snapshot.serial2 ++
    cmd1 r.snapshot.fields ++ cmd2 r.snapshot.fields

end Sys2Proof.Machine
end

