-- ==== Sys2Proof/Machine/Operands.lean ====
section
/-! DEFINITION. Operand assembly, validation and application of a SET (30_encoding.md R48, R50,
40_state_model_commands.md R71 steps 1 and 2). -/

namespace Sys2Proof.Machine

/-- Whether the mask selects a field (30_encoding.md R46). -/
def selects (mask : Byte) (f : Field) : Bool := mask.getLsbD (fieldNumber f)

/-- A boolean operand: the bit of the flags byte at the field's number (30_encoding.md R48). -/
def flagOperand (flags : Byte) (f : Field) : Bool := flags.getLsbD (fieldNumber f)

/-- What a level register stores of a validated operand: its low 3 bits (30_encoding.md R48). -/
def levelOperand (op : Byte) : Level := op.extractLsb' 0 3

/-- A level operand that the mask selects and that is above 6, as an 8-bit unsigned number
(40_state_model_commands.md R71 step 1). -/
def outOfRange (mask op : Byte) (f : Field) : Bool := selects mask f && decide (levelMax < op)

/-- Step 1 of SET (40_state_model_commands.md R71, order of decision D9, assumption log 10): the
first level field, in field-number order, whose operand is rejected. -/
def firstInvalid (mask lightOp fanOp flameOp : Byte) : Option CoreError :=
  if outOfRange mask lightOp .light then some (.validation .light lightOp)
  else if outOfRange mask fanOp .fan then some (.validation .fan fanOp)
  else if outOfRange mask flameOp .flame then some (.validation .flame flameOp)
  else none

/-- The new value of a boolean register (40_state_model_commands.md R71 step 2). -/
def boolUpdate (mask flags : Byte) (f : Field) (old : Bool) : Bool :=
  if selects mask f then flagOperand flags f else old

/-- The new value of a level register (40_state_model_commands.md R71 step 2). -/
def levelUpdate (mask op : Byte) (f : Field) (old : Level) : Level :=
  if selects mask f then levelOperand op else old

/-- Step 2 of SET: all selected fields together (40_state_model_commands.md R71, R72). -/
def applyUpdates (mask flags lightOp fanOp flameOp : Byte) (st : FieldRegs) : FieldRegs where
  pilot := boolUpdate mask flags .pilot st.pilot
  light := levelUpdate mask lightOp .light st.light
  thermostat := boolUpdate mask flags .thermostat st.thermostat
  power := boolUpdate mask flags .power st.power
  front := boolUpdate mask flags .front st.front
  fan := levelUpdate mask fanOp .fan st.fan
  aux := boolUpdate mask flags .aux st.aux
  flame := levelUpdate mask flameOp .flame st.flame

end Sys2Proof.Machine
end

