-- ==== Sys2Proof/Machine/FrameBuilder.lean ====
section
/-! DEFINITION. The Frame Builder (43_frame_builder.md). -/

namespace Sys2Proof.Machine

/-- The frame alphabet (00_scope.md section 6.3). -/
inductive Symbol where
  /-- `S`, the start symbol. -/
  | start
  /-- `0`, a data symbol. -/
  | zero
  /-- `1`, a data symbol. -/
  | one
  /-- `Z`, the idle symbol. -/
  | idle
deriving DecidableEq, Repr

/-- `sym(b)` (00_scope.md section 6.3). -/
def sym (b : Bool) : Symbol := if b then .one else .zero

/-- The set bits of a bit list, counted modulo 2 (43_frame_builder.md R110, mode `POPCOUNT`). -/
def popcountParity (bl : Bits) : Bool := bl.count true % 2 == 1

/-- `Parity(bl)` (43_frame_builder.md R110). -/
def parity (mode : ParityMode) (bl : Bits) : Bool :=
  match mode with
  | .popcount => popcountParity bl
  | .alt => Config.altParityFn bl

/-- `Frame(d, P)` (43_frame_builder.md R112). -/
def frame (d : Word9) (p : Bool) : List Symbol :=
  [.start, .one] ++ (streamBits d).map sym ++ [sym p, .one] ++ List.replicate idleSymbols .idle

/-- The frame of one packet word under a parity mode (43_frame_builder.md R114). -/
def framePacketWord (mode : ParityMode) (w : PacketWord) : List Symbol :=
  frame w.data (parity mode w.parityInput)

/-- `FramedStream(ST)` (43_frame_builder.md R114). -/
def framedStream (cfg : Cfg) (st : FieldRegs) : List Symbol :=
  (packetWords cfg st).flatMap (framePacketWord cfg.parityMode)

end Sys2Proof.Machine
end

