-- ==== Sys2Proof/Machine/LineEncoder.lean ====
section
/-! DEFINITION. The Line Encoder (44_line_encoder.md) and its test-only decoder. -/

namespace Sys2Proof.Machine

/-- `Line(s)` (44_line_encoder.md R125). -/
def line : Symbol → Bits
  | .start => [true, true]
  | .zero => [false, true]
  | .one => [true, false]
  | .idle => [false, false]

/-- `LineStream(ss)` (44_line_encoder.md R126). -/
def lineStream : List Symbol → Bits
  | [] => []
  | s :: ss => line s ++ lineStream ss

/-- `Unline` of the pair with first bit `a` and second bit `b` (44_line_encoder.md R128). -/
def unline (a b : Bool) : Symbol :=
  match a, b with
  | true, true => .start
  | false, true => .zero
  | true, false => .one
  | false, false => .idle

/-- `UnlineStream`: pairs from the front (44_line_encoder.md R128, for sequences of even length). -/
def unlineStream : Bits → List Symbol
  | a :: b :: rest => unline a b :: unlineStream rest
  | _ => []

/-- `Pack(B)`: the padded stream cut into bytes (44_line_encoder.md R129, 20_memory.md R33). -/
def pack (bs : Bits) : List Byte := bytesOfBits (bs ++ padBits)

/-- `Encode(ST)` (44_line_encoder.md R130): reads the state and the configuration, nothing else. -/
def encodePacket (cfg : Cfg) (st : FieldRegs) : List Byte :=
  pack (lineStream (framedStream cfg st))

end Sys2Proof.Machine
end

