-- ==== Sys2Proof/Machine/Transmitter.lean ====
section
/-! DEFINITION. The radio's side of a hand-off: its read of TXBUF (20_memory.md R31) and what the
spec assumes it puts on the air (45_transmitter_interface.md R136, R139, R140). No command calls these. -/

namespace Sys2Proof.Machine

/-- The radio's modulation (45_transmitter_interface.md R138). -/
inductive Modulation where
  /-- On-off keying, amplitude-shift keying. -/
  | ookAsk
deriving DecidableEq, Repr

/-- The radio's one-time, out-of-band configuration (45_transmitter_interface.md R138). -/
structure RadioSetup where
  frequencyHz : Nat
  modulation : Modulation
  baudRate : Nat
deriving DecidableEq, Repr

/-- The protocol constants the platform gives the radio before the first SET (45_transmitter_interface.md
R138, 70_reset_and_hazards.md R173 c). "No rule of the core depends on them"; what a baud counts is OPEN
(00_scope.md R5, assumption log 21). -/
def protocolRadioSetup : RadioSetup where
  frequencyHz := 314973000
  modulation := .ookAsk
  baudRate := 2400

/-- `MemRead(addr, width)` on a TXBUF: "`MemRead(a, 1) = TXBUF[a]` for `0 <= a <= 38`; no other
address and no other width exists" (20_memory.md R31). -/
def txbufRead (buf : List Byte) (addr width : Nat) : Except Fault Byte :=
  if width = 1 ∧ addr < txbufBytes then .ok (buf.getD addr 0)
  else .error (.noTxbufByte addr width)

/-- The line bits of one emission of a buffer (45_transmitter_interface.md R139). -/
def emission (buf : List Byte) : Bits := bitsOfBytes buf

/-- What the radio does on the air in one hand-off, in order. -/
inductive AirEvent where
  /-- One emission of the buffer: its line bits (45_transmitter_interface.md R139). -/
  | emission (bits : Bits)
  /-- The pause between two emissions, of a length the spec leaves open, possibly 0
  (93_implementation_defined.md U2). What the line does in it is not said and not modelled. -/
  | gap (length : Nat)
deriving DecidableEq, Repr

/-- Hand-off `n` since reset on the air: as many emissions as the count says
(45_transmitter_interface.md R136), and between two of them a gap of free length (R140, U2,
assumption log 20). This is the air when the radio does not fail after it took the hand-off: a DESIGN
CHOICE, since the spec says nothing of such a failure (91_not_in_source.md N20, assumption log 24). -/
def onAir (n : Nat) (t : Transmit) : List AirEvent :=
  (List.range t.count.toNat).flatMap fun i =>
    if i = 0 then [.emission (emission t.buf)]
    else [.gap (Config.emissionGap n (i - 1)), .emission (emission t.buf)]

/-- The line bits that a sequence of air events emits, in order, whatever the gaps between them. -/
def emittedBits : List AirEvent → Bits
  | [] => []
  | .emission bits :: rest => bits ++ emittedBits rest
  | .gap _ :: rest => emittedBits rest

/-- The hand-offs of an output trace on the air, one sequence of events each: nothing is said of the
time between hand-offs (45_transmitter_interface.md R137, R140). DESIGN CHOICE: each event has all its
emissions, as of a radio that never fails after taking a hand-off. N20 of 91_not_in_source.md warns that
an emitted `Transmit` event need not mean that anything reached the air (assumption log 24). -/
def airOfTrace (trace : List Transmit) : List (List AirEvent) := trace.mapIdx onAir

end Sys2Proof.Machine
end

