-- ==== Sys2Proof/Machine/Ops.lean ====
section
/-! DEFINITION. The operations the meanings share: answering, raising an error, sampling the radio,
handing a packet over, resetting, and fetching the next event of the port. -/

namespace Sys2Proof.Machine

/-- Answers a command: one response with the snapshot of the state as it stands now
(30_encoding.md R51). -/
def respond (status : Status) (errField errValue : Byte) (s : State) : State :=
  { s with responses := s.responses ++
      [{ status := status, errField := errField, errValue := errValue, snapshot := snapshotOf s }] }

/-- Answers OK (40_state_model_commands.md R71, R76). -/
def respondOk (s : State) : State := respond .ok noErrField noErrValue s

/-- Taking an error, for every kind (60_exceptions.md R145, R152): the state changes made before it
stand, the response carries the status and the information, and nothing else happens: nothing is
saved, no mode changes, control goes nowhere; there is no return from it (R153). -/
def raiseError (e : CoreError) (s : State) : State :=
  respond (errorStatus e) (errorField e) (errorValue e) s

/-- `env.radio_avail` as this sampling finds it (45_transmitter_interface.md R137): the answer the
state lists next, or the free value where it lists none (assumption log 3). -/
def radioAvail (s : State) : Bool :=
  match s.radioAnswers with
  | answer :: _ => answer
  | [] => Config.radioAvailable s.radioDraws

/-- The environment's answers after one sampling. -/
def radioSampled (s : State) : State :=
  match s.radioAnswers with
  | _ :: rest => { s with radioAnswers := rest }
  | [] => { s with radioDraws := s.radioDraws + 1 }

/-- `emit Transmit(Encode(ST), REPEAT_COUNT)` (45_transmitter_interface.md R135, R136). -/
def emitTransmit (s : State) : State :=
  { s with trace := s.trace ++ [{ buf := encodePacket s.cfg s.fields, count := repeatCount }] }

/-- Step 3 of SET (40_state_model_commands.md R71): the radio is sampled once, then either the packet
of the whole state goes out and the answer is OK, or `TransmitUnavailable` is raised and the state
stays as updated (R75, decision D10, assumption log 9). -/
def handOff (s : State) : State :=
  if radioAvail s then respondOk (emitTransmit (radioSampled s))
  else raiseError .transmitUnavailable (radioSampled s)

/-- The reset event with the configuration it samples (70_reset_and_hazards.md R170, R171). The
environment's coming moves are not the core's and stay (assumption log 5). -/
def applyReset (cfg : Cfg) (s : State) : State :=
  { State.resetWith cfg with
    port := s.port
    radioAnswers := s.radioAnswers
    radioDraws := s.radioDraws }

/-- The host presents an event after those it already means to present (70_reset_and_hazards.md R177). -/
def present (e : PortEvent) (s : State) : State := { s with port := s.port ++ [e] }

/-- The next event of the port, and the state with that event taken. -/
def takeEvent (s : State) : Option (PortEvent × State) :=
  match s.port with
  | [] => none
  | e :: rest => some (e, { s with port := rest })

/-- A command word that the decoder rejects (30_encoding.md R49, 60_exceptions.md R148): the radio is
not sampled, nothing changes but the response. -/
def takeIllegal (e : DecodeError) (s : State) : State :=
  match e with
  | .illegalOpcode opcode => raiseError (.illegalCommand opcode) s

/-- The state in which the next event the core takes is the given opcode-table word as a command. -/
def presentNext (nbits w : Nat) (s : State) : State :=
  { s with port := .command (commandOfTableWord nbits w) :: s.port }

end Sys2Proof.Machine
end

