-- ==== Sys2Proof/Machine/StateModel.lean ====
section
/-! DEFINITION. The meanings of the commands (40_state_model_commands.md). -/

namespace Sys2Proof.Machine

/-- SET (40_state_model_commands.md R71): validate, apply all selected fields together, hand the
packet of the whole new state over. A rejected SET changes no field (R72). -/
def execSet (mask flags lightOp fanOp flameOp : Byte) (s : State) :
    Host.Outcome State Fault Refusal :=
  match firstInvalid mask lightOp fanOp flameOp with
  | some e => .next (raiseError e s)
  | none => .next (handOff { s with fields := applyUpdates mask flags lightOp fanOp flameOp s.fields })

/-- GET (40_state_model_commands.md R76): answers OK with the snapshot and does nothing else. The low
40 bits of the word have no effect (30_encoding.md R50). -/
def execGet (_ignored : BitVec 40) (s : State) : Host.Outcome State Fault Refusal :=
  .next (respondOk s)

/-- RESEND (40_state_model_commands.md R74, R77): step 3 of SET on the unchanged state. The low 32 bits
of the word have no effect (30_encoding.md R50). -/
def execResend (_ignored : BitVec 32) (s : State) : Host.Outcome State Fault Refusal :=
  .next (handOff s)

end Sys2Proof.Machine
end

