-- ==== Sys2Proof/Machine/Dispatch.lean ====
section
/-! DEFINITION. One arm per constructor of Instr. -/

namespace Sys2Proof.Machine

def exec (i : Instr) (s : State) : Host.Outcome State Fault Refusal :=
  match i with
  | .set mask flags lightOp fanOp flameOp => Sys2Proof.Machine.execSet mask flags lightOp fanOp flameOp s
  | .get ignored => Sys2Proof.Machine.execGet ignored s
  | .resend ignored => Sys2Proof.Machine.execResend ignored s

end Sys2Proof.Machine
end

