-- ==== Sys2Proof/Machine/Step.lean ====
section
/-! DEFINITION. One step of the core: it takes the next event of the port. -/

namespace Sys2Proof.Machine

/-- One transition (40_state_model_commands.md R70): a command word is decoded and executed, a word
that spells no command is answered `ILLEGAL_COMMAND`, a reset resets; with nothing presented the core
is idle and holds its state (60_exceptions.md R160, assumption log 4). -/
def step (s : State) : Host.Outcome State Fault Refusal :=
  match takeEvent s with
  | none => .next s
  | some (.reset cfg, s') => .next (applyReset cfg s')
  | some (.command cw, s') =>
    match decode cw with
    | .ok i => exec i s'
    | .error e => .next (takeIllegal e s')

/-- `s` with an opcode-table word as the command the core takes next (assumption log 4). -/
def State.withFetchWord (s : State) (nbits w : Nat) : State := presentNext nbits w s

end Sys2Proof.Machine
end

