-- ==== Sys2Proof/Machine/Assembler.lean ====
section
/-! DEFINITION. The textual syntax of commands, the assembler and the disassembler (30_encoding.md
R55, R56, decision D29). Nothing of the core depends on them. -/

namespace Sys2Proof.Machine

/-- `boolfield` of the grammar. -/
inductive BoolField where
  | pilot
  | thermostat
  | power
  | front
  | aux
deriving DecidableEq, Repr

/-- `levelfield` of the grammar. -/
inductive LevelField where
  | light
  | fan
  | flame
deriving DecidableEq, Repr

/-- `assign` of the grammar: a boolean field with 0 or 1, a level field with a number 0 to 255. -/
inductive Assign where
  | flag (f : BoolField) (value : Bool)
  | level (f : LevelField) (value : Byte)
deriving DecidableEq, Repr

/-- `command` of the grammar. -/
inductive Asm where
  | set (assigns : List Assign)
  | get
  | resend
deriving DecidableEq, Repr

/-- The field of a boolean field name. -/
def boolField : BoolField → Field
  | .pilot => .pilot
  | .thermostat => .thermostat
  | .power => .power
  | .front => .front
  | .aux => .aux

/-- The field of a level field name. -/
def levelField : LevelField → Field
  | .light => .light
  | .fan => .fan
  | .flame => .flame

/-- The field an assignment names. -/
def assignField : Assign → Field
  | .flag f _ => boolField f
  | .level f _ => levelField f

/-- The byte with the one bit at a field's number. -/
def fieldBit (f : Field) : Byte := BitVec.twoPow 8 (fieldNumber f)

/-- The assembled operand bytes of a SET: mask, flags, and the three level operands. -/
structure SetBytes where
  mask : Byte
  flags : Byte
  lightOp : Byte
  fanOp : Byte
  flameOp : Byte
deriving DecidableEq, Repr

/-- A SET with no assignment: every bit below the opcode is 0. -/
def emptySet : SetBytes where
  mask := 0
  flags := 0
  lightOp := 0
  fanOp := 0
  flameOp := 0

/-- One assignment: its mask bit, and its `flags` bit or operand byte (30_encoding.md R55). -/
def assembleAssign (b : SetBytes) (a : Assign) : SetBytes :=
  match a with
  | .flag f value =>
    { b with
      mask := b.mask ||| fieldBit (boolField f)
      flags := if value then b.flags ||| fieldBit (boolField f) else b.flags }
  | .level .light value => { b with mask := b.mask ||| fieldBit .light, lightOp := value }
  | .level .fan value => { b with mask := b.mask ||| fieldBit .fan, fanOp := value }
  | .level .flame value => { b with mask := b.mask ||| fieldBit .flame, flameOp := value }

/-- The operand bytes of a list of assignments. -/
def assembleSet (assigns : List Assign) : SetBytes := assigns.foldl assembleAssign emptySet

/-- The command word of a SET from its operand bytes (30_encoding.md R46). -/
def setWord (b : SetBytes) : CommandWord := encode (.set b.mask b.flags b.lightOp b.fanOp b.flameOp)

/-- The assembler (30_encoding.md R55): none where a field appears more than once in a SET. -/
def assemble : Asm → Option CommandWord
  | .set assigns =>
    if (assigns.map assignField).Nodup then some (setWord (assembleSet assigns)) else none
  | .get => some (encode (.get 0))
  | .resend => some (encode (.resend 0))

/-- The assignment of a boolean field, if selected. -/
def disassembleFlag (mask flags : Byte) (f : BoolField) : List Assign :=
  if selects mask (boolField f) then [.flag f (flagOperand flags (boolField f))] else []

/-- The assignment of a level field, if selected. -/
def disassembleLevel (mask op : Byte) (f : LevelField) : List Assign :=
  if selects mask (levelField f) then [.level f op] else []

/-- The disassembler (30_encoding.md R55): the selected fields in field-number order, ignored bits
left out. -/
def disassemble : Instr → Asm
  | .set mask flags lightOp fanOp flameOp =>
    .set (disassembleFlag mask flags .pilot ++ disassembleLevel mask lightOp .light ++
      disassembleFlag mask flags .thermostat ++ disassembleFlag mask flags .power ++
      disassembleFlag mask flags .front ++ disassembleLevel mask fanOp .fan ++
      disassembleFlag mask flags .aux ++ disassembleLevel mask flameOp .flame)
  | .get _ => .get
  | .resend _ => .resend

/-- The name of a boolean field in the text. -/
def boolFieldText : BoolField → List Char
  | .pilot => ['p', 'i', 'l', 'o', 't']
  | .thermostat => ['t', 'h', 'e', 'r', 'm', 'o', 's', 't', 'a', 't']
  | .power => ['p', 'o', 'w', 'e', 'r']
  | .front => ['f', 'r', 'o', 'n', 't']
  | .aux => ['a', 'u', 'x']

/-- The name of a level field in the text. -/
def levelFieldText : LevelField → List Char
  | .light => ['l', 'i', 'g', 'h', 't']
  | .fan => ['f', 'a', 'n']
  | .flame => ['f', 'l', 'a', 'm', 'e']

/-- The character of a decimal digit. -/
def digitChar (d : Nat) : Char := Char.ofNat (48 + d)

/-- A byte as a decimal number without leading zeros. -/
def decimalText (v : Byte) : List Char :=
  let n := v.toNat
  if n < 10 then [digitChar n]
  else if n < 100 then [digitChar (n / 10), digitChar (n % 10)]
  else [digitChar (n / 100), digitChar (n / 10 % 10), digitChar (n % 10)]

/-- `assign` as text. -/
def assignText : Assign → List Char
  | .flag f value => boolFieldText f ++ '=' :: [if value then '1' else '0']
  | .level f value => levelFieldText f ++ '=' :: decimalText value

/-- The assignments of a SET as text, separated by a comma and a space as in the examples of R55. -/
def assignsText : List Assign → List Char
  | [] => []
  | [a] => assignText a
  | a :: rest => assignText a ++ [',', ' '] ++ assignsText rest

/-- A command as text (30_encoding.md R55). -/
def asmText : Asm → List Char
  | .set [] => ['S', 'E', 'T']
  | .set assigns => ['S', 'E', 'T', ' '] ++ assignsText assigns
  | .get => ['G', 'E', 'T']
  | .resend => ['R', 'E', 'S', 'E', 'N', 'D']

/-- The pieces of a text between the occurrences of a separator. -/
def splitAt (sep : Char) : List Char → List (List Char)
  | [] => [[]]
  | c :: cs =>
    match splitAt sep cs with
    | [] => [[c]]
    | piece :: pieces => if c = sep then [] :: piece :: pieces else (c :: piece) :: pieces

/-- A text without its spaces (where spaces may stand is open: assumption log 22). -/
def withoutSpaces (cs : List Char) : List Char := cs.filter (fun c => c != ' ')

/-- The value of a text of decimal digits, at most 255; none for anything else. -/
def parseNumber (acc : Option Nat) : List Char → Option Nat
  | [] => acc
  | c :: cs =>
    if '0' ≤ c ∧ c ≤ '9' then
      let n := 10 * acc.getD 0 + (c.toNat - 48)
      if n ≤ 255 then parseNumber (some n) cs else none
    else none

/-- A boolean field's name read from the text. -/
def parseBoolField (cs : List Char) : Option BoolField :=
  [BoolField.pilot, .thermostat, .power, .front, .aux].find? (fun f => boolFieldText f == cs)

/-- A level field's name read from the text. -/
def parseLevelField (cs : List Char) : Option LevelField :=
  [LevelField.light, .fan, .flame].find? (fun f => levelFieldText f == cs)

/-- `assign` read from the text of one assignment, spaces removed. -/
def parseAssign (cs : List Char) : Option Assign :=
  match splitAt '=' cs with
  | [name, value] =>
    match parseBoolField name with
    | some f =>
      if value = ['1'] then some (.flag f true)
      else if value = ['0'] then some (.flag f false)
      else none
    | none => do
      let f ← parseLevelField name
      let n ← parseNumber none value
      return .level f (BitVec.ofNat 8 n)
  | _ => none

/-- `command` read from its text (30_encoding.md R55). -/
def parse (text : List Char) : Option Asm :=
  match withoutSpaces text with
  | ['G', 'E', 'T'] => some .get
  | ['R', 'E', 'S', 'E', 'N', 'D'] => some .resend
  | 'S' :: 'E' :: 'T' :: [] => some (.set [])
  | 'S' :: 'E' :: 'T' :: rest => ((splitAt ',' rest).mapM parseAssign).map .set
  | _ => none

end Sys2Proof.Machine
end

