-- ==== Sys2Proof/Safety.lean ====
section
/-! DEFINITION. What a safe state of the core is, in the terms the statements use. -/

namespace Sys2Proof.Machine

/-- The level invariant (10_state.md R12): no level register holds 7. -/
def levelsLegal (st : FieldRegs) : Prop := st.light ≤ 6 ∧ st.fan ≤ 6 ∧ st.flame ≤ 6

/-- A `Transmit` event that the core may have emitted under `cfg`: the packet of some legal state,
with the fixed repeat count (45_transmitter_interface.md R135, R136). -/
def transmitLegal (cfg : Cfg) (t : Transmit) : Prop :=
  t.count = 5 ∧ ∃ st : FieldRegs, levelsLegal st ∧ t.buf = encodePacket cfg st

/-- A response that the core may have given under `cfg`: the serial words verbatim, a snapshot of a
legal state, and the error information that goes with its status (30_encoding.md R51). -/
def responseLegal (cfg : Cfg) (r : Response) : Prop :=
  r.snapshot.serial0 = cfg.serial0 ∧ r.snapshot.serial1 = cfg.serial1 ∧
  r.snapshot.serial2 = cfg.serial2 ∧ levelsLegal r.snapshot.fields ∧
  match r.status with
  | .ok => r.errField = 0xFF ∧ r.errValue = 0
  | .validationError => (r.errField = 1 ∨ r.errField = 5 ∨ r.errField = 7) ∧ 7 ≤ r.errValue
  | .transmitUnavailable => r.errField = 0xFF ∧ r.errValue = 0
  | .illegalCommand => r.errField = 0xFF ∧ r.errValue ≠ 1 ∧ r.errValue ≠ 2

/-- The responses with status OK. -/
def okResponses (s : State) : List Response := s.responses.filter (fun r => r.status == .ok)

/-- What holds of every state a run reaches: the level invariant, only legal packets and responses
since reset under the configuration sampled then, and no more packets than OK answers. -/
def SafeState (s : State) : Prop :=
  levelsLegal s.fields ∧ (∀ t ∈ s.trace, transmitLegal s.cfg t) ∧
  (∀ r ∈ s.responses, responseLegal s.cfg r) ∧ s.trace.length ≤ (okResponses s).length

/-- `s` with an event at the head of the port and `rest` behind it. -/
def presenting (e : PortEvent) (rest : List PortEvent) (s : State) : State :=
  { s with port := e :: rest }

/-- A SET's level operand that is selected (mask bit `n`) and outside [0,6]
(40_state_model_commands.md R71 step 1), written out on the numbers. -/
def rejects (mask op : Byte) (n : Nat) : Bool := mask.getLsbD n && decide (6 < op.toNat)

/-- A SET none of whose selected level operands is outside [0,6]. -/
def setValid (mask lightOp fanOp flameOp : Byte) : Bool :=
  !rejects mask lightOp 1 && !rejects mask fanOp 5 && !rejects mask flameOp 7

/-- The field registers after step 2 of SET, bit by bit as the pseudocode of
40_state_model_commands.md R71 writes them. -/
def fieldsAfterSet (mask flags lightOp fanOp flameOp : Byte) (st : FieldRegs) : FieldRegs where
  pilot := if mask.getLsbD 0 then flags.getLsbD 0 else st.pilot
  light := if mask.getLsbD 1 then BitVec.ofNat 3 lightOp.toNat else st.light
  thermostat := if mask.getLsbD 2 then flags.getLsbD 2 else st.thermostat
  power := if mask.getLsbD 3 then flags.getLsbD 3 else st.power
  front := if mask.getLsbD 4 then flags.getLsbD 4 else st.front
  fan := if mask.getLsbD 5 then BitVec.ofNat 3 fanOp.toNat else st.fan
  aux := if mask.getLsbD 6 then flags.getLsbD 6 else st.aux
  flame := if mask.getLsbD 7 then BitVec.ofNat 3 flameOp.toNat else st.flame

/-- `s` with one more response, written out: the status, the error information and the snapshot of
`s` itself (30_encoding.md R51). -/
def answered (s : State) (status : Status) (errField errValue : Byte) : State :=
  { s with responses := s.responses ++ [⟨status, errField, errValue,
      ⟨s.cfg.serial0, s.cfg.serial1, s.cfg.serial2, s.fields⟩⟩] }

/-- `s` with one more `Transmit` event: the packet of `s` and the count 5 (45_transmitter_interface.md
R135, R136). -/
def transmitted (s : State) : State :=
  { s with trace := s.trace ++ [⟨encodePacket s.cfg s.fields, 5⟩] }

/-- A command word that decodes to a SET which passes validation or to RESEND: the commands that
reach step 3 (40_state_model_commands.md R71, R74). -/
def reachesHandOff (cw : CommandWord) : Bool :=
  match decode cw with
  | .ok (.set mask _ lightOp fanOp flameOp) => setValid mask lightOp fanOp flameOp
  | .ok (.resend _) => true
  | .ok (.get _) => false
  | .error _ => false

/-- The bits of a command word that may have an effect (30_encoding.md R50): for the opcode of SET the
opcode and mask bytes, the flag bits of selected boolean fields (numbers 0, 2, 3, 4, 6) and the operand
bytes of selected level fields; for any other opcode the opcode byte alone. -/
def relevantMask (cw : CommandWord) : CommandWord :=
  if cw.extractLsb' 40 8 = 0x01#8 then
    0xFFFF00000000#48 ||| ((cw >>> 8) &&& 0x00005D000000#48) |||
      (if cw.getLsbD 33 then 0x000000FF0000#48 else 0) |||
      (if cw.getLsbD 37 then 0x00000000FF00#48 else 0) |||
      (if cw.getLsbD 39 then 0x0000000000FF#48 else 0)
  else 0xFF0000000000#48

/-- Nibble `n` of a buffer (20_memory.md R34): the high half of a byte when `n` is even, else the low
half. -/
def bufferNibble (buf : List Byte) (n : Nat) : BitVec 4 :=
  if n % 2 = 0 then (buf.getD (n / 2) 0).extractLsb' 4 4 else (buf.getD (n / 2) 0).extractLsb' 0 4

/-- `L(x)`, the line code of the data symbol of a bit, as a 2-bit number (20_memory.md R35). -/
def lineCode (x : Bool) : BitVec 2 := if x then 0b10 else 0b01

end Sys2Proof.Machine
end

