-- ==== Sys2Proof/Certificates/Slice0/Obligations.lean ====
section
/-! DEFINITION. The statements for the provers. "The model's choice" in a docstring marks what rests
on an assumption-log entry; "the spec's decision" names the row of spec/92_eei_decisions.md that a
rule rests on. -/

open Sys2Proof Sys2Proof.Machine

/-! ### Command words -/

/-- Decoding an encoded well-formed command gives it back, every operand at every value. The name
chosen for a word with an empty mask, and keeping the ignored bits, are the model's choice
(assumption logs 7 and 8). -/
def Obligations.DecodeOfEncodeGivesTheCommandBack : Prop :=
  ∀ i : Instr, i.wellFormed = true → decode (encode i) = .ok i

/-- Encoding what was decoded gives the command word back: each word has one reading. The model's
choice as above (assumption logs 7 and 8). -/
def Obligations.EncodeOfDecodeGivesTheWordBack : Prop :=
  ∀ (cw : CommandWord) (i : Instr), decode cw = .ok i → i.wellFormed = true ∧ encode i = cw

/-- The decoder rejects exactly the words whose opcode byte is neither 0x01 nor 0x02, and names that
byte. -/
def Obligations.DecoderRejectsExactlyReservedOpcodes : Prop :=
  ∀ cw : CommandWord,
    ((∃ e, decode cw = .error e) ↔ (cw >>> 40 ≠ 0x01#48 ∧ cw >>> 40 ≠ 0x02#48)) ∧
    ∀ e, decode cw = .error e → e = .illegalOpcode (cw.extractLsb' 40 8)

/-- A few command words written out bit by bit decode to the commands they stand for
(30_encoding.md R46, R47, R55, R56). -/
def Obligations.WrittenCommandWordsDecode : Prop :=
  decode 0b00000001_00001000_00001000_00000000_00000000_00000000#48 =
    .ok (.set 0x08 0x08 0 0 0) ∧
  decode 0b00000001_10100000_00000000_00000000_00000011_00000110#48 =
    .ok (.set 0xA0 0 0 3 6) ∧
  decode 0b00000001_00000010_00000000_00000111_00000000_00000000#48 =
    .ok (.set 0x02 0 7 0 0) ∧
  decode 0b00000010_00000000_00000000_00000000_00000000_00000000#48 = .ok (.get 0) ∧
  decode 0b00000001_00000000_00000000_00000000_00000000_00000000#48 = .ok (.resend 0) ∧
  decode 0b01111111_00000000_00000000_00010010_00110100_01010110#48 =
    .error (.illegalOpcode 0x7F)

/-- A step at a command word that decodes to a command is that command's execution, the word taken
from the port and nothing else changed around it. -/
def Obligations.StepRunsTheDecodedCommand : Prop :=
  ∀ (s : State) (cw : CommandWord) (rest : List PortEvent) (i : Instr),
    decode cw = .ok i →
    step (presenting (.command cw) rest s) = exec i { s with port := rest }

/-- A word with a reserved opcode byte is answered ILLEGAL_COMMAND (0x03) with its opcode byte; the
registers, the trace and the radio's answers are as before. The spec's decision D6. -/
def Obligations.IllegalWordIsAnsweredAndChangesNothing : Prop :=
  statusCode .illegalCommand = 0x03 ∧
  ∀ (s : State) (cw : CommandWord) (rest : List PortEvent),
    cw.extractLsb' 40 8 ≠ 0x01#8 → cw.extractLsb' 40 8 ≠ 0x02#8 →
    step (presenting (.command cw) rest s) =
      .next (answered { s with port := rest } .illegalCommand 0xFF (cw.extractLsb' 40 8))

/-- With nothing presented the core holds its state: the model's choice for an empty port
(assumption log 4), from "between commands it is idle and holds its state" (60_exceptions.md). -/
def Obligations.IdleCoreHoldsItsState : Prop :=
  ∀ s : State, step { s with port := [] } = .next { s with port := [] }

/-- Two command words that agree on every bit that may have an effect give the same step; and the
assembler writes 0 in every ignored position. The spec's decision D5. -/
def Obligations.IgnoredBitsHaveNoEffect : Prop :=
  (∀ (cw cw' : CommandWord) (rest : List PortEvent) (s : State),
    cw &&& relevantMask cw = cw' &&& relevantMask cw →
    step (presenting (.command cw) rest s) = step (presenting (.command cw') rest s)) ∧
  ∀ (a : Asm) (cw : CommandWord), assemble a = some cw → cw &&& ~~~relevantMask cw = 0

/-! ### Reset -/

/-- After a reset event the eight field registers hold their reset values and the configuration is
what was sampled; `State.reset` holds the same field values. The spec's decision D11. -/
def Obligations.ResetGivesTheResetValues : Prop :=
  (∀ (s : State) (cfg : Cfg) (rest : List PortEvent), ∃ t,
    step (presenting (.reset cfg) rest s) = .next t ∧
    t.fields = ⟨true, 0, false, false, false, 0, false, 0⟩ ∧ t.cfg = cfg) ∧
  State.reset.fields = ⟨true, 0, false, false, false, 0, false, 0⟩

/-- Reset empties the output trace and transmits nothing. That the list of responses restarts and the
environment's coming moves stay is the model's choice (assumption log 5). -/
def Obligations.ResetTransmitsNothing : Prop :=
  ∀ (s : State) (cfg : Cfg) (rest : List PortEvent), ∃ t,
    step (presenting (.reset cfg) rest s) = .next t ∧ t.trace = [] ∧ t.responses = [] ∧
    t.port = rest ∧ t.radioAnswers = s.radioAnswers ∧ t.radioDraws = s.radioDraws

/-- The packet of the reset state, whatever the serial words: words 3 to 6 are framed from 0x80, 0x00,
0x58, 0x07, and in mode POPCOUNT their parity bits are 1, 0, 1, 1. -/
def Obligations.ResetPacketWords : Prop :=
  ∀ cfg : Cfg,
    ((packetWords cfg State.reset.fields).drop 3).map (·.data) = [0x100, 0x000, 0x0B0, 0x00E] ∧
    ((packetWords cfg State.reset.fields).drop 3).map (fun w => parity .popcount w.parityInput) =
      [true, false, true, true]

/-! ### SET -/

/-- SET does what its pseudocode says, for every operand, state and answer of the radio: validation in
field-number order (the spec's decision D9), all updates together, one sampling of the radio, then the
packet of the whole new state or TRANSMIT_UNAVAILABLE with the update kept (D10). -/
def Obligations.SetFollowsItsPseudocode : Prop :=
  ∀ (mask flags lightOp fanOp flameOp : Byte) (s : State),
    exec (.set mask flags lightOp fanOp flameOp) s = .next
      (if rejects mask lightOp 1 then answered s .validationError 1 lightOp
       else if rejects mask fanOp 5 then answered s .validationError 5 fanOp
       else if rejects mask flameOp 7 then answered s .validationError 7 flameOp
       else
         let u := radioSampled { s with
           fields := fieldsAfterSet mask flags lightOp fanOp flameOp s.fields }
         if radioAvail s then answered (transmitted u) .ok 0xFF 0x00
         else answered u .transmitUnavailable 0xFF 0x00)

/-- SET completes: with no selected level operand above 6 and the radio available it gives a next
state in which the selected fields are written and the packet of the new state is handed over; every
register, event, response and coming event besides those named is as before. -/
def Obligations.SetCompletes : Prop :=
  ∀ (mask flags lightOp fanOp flameOp : Byte) (s : State),
    setValid mask lightOp fanOp flameOp = true → radioAvail s = true →
    ∃ t, exec (.set mask flags lightOp fanOp flameOp) s = .next t ∧
      t.fields = fieldsAfterSet mask flags lightOp fanOp flameOp s.fields ∧
      t.cfg = s.cfg ∧ t.port = s.port ∧
      t.trace = s.trace ++ [⟨encodePacket s.cfg t.fields, 5⟩] ∧
      t.responses = s.responses ++ [⟨.ok, 0xFF, 0x00, snapshotOf t⟩] ∧
      t.radioAnswers = s.radioAnswers.tail

/-- The fields of one SET are applied all together or not at all, no response snapshot or packet shows
anything but the state after the command, and a SET that passes validation is the only event besides
reset after which a field register can differ. -/
def Obligations.SetIsAtomicAndTheOnlyFieldWriter : Prop :=
  (∀ (mask flags lightOp fanOp flameOp : Byte) (s : State), ∃ t r,
    exec (.set mask flags lightOp fanOp flameOp) s = .next t ∧
    t.fields = (if setValid mask lightOp fanOp flameOp
      then fieldsAfterSet mask flags lightOp fanOp flameOp s.fields else s.fields) ∧
    t.responses = s.responses ++ [r] ∧ r.snapshot.fields = t.fields ∧
    (t.trace = s.trace ∨ t.trace = s.trace ++ [⟨encodePacket t.cfg t.fields, 5⟩])) ∧
  ∀ s t : State, step s = .next t → t.fields ≠ s.fields →
    (∃ cfg rest, s.port = .reset cfg :: rest) ∨
    ∃ cw rest mask flags lightOp fanOp flameOp, s.port = .command cw :: rest ∧
      decode cw = .ok (.set mask flags lightOp fanOp flameOp) ∧
      setValid mask lightOp fanOp flameOp = true

/-- A command answers VALIDATION_ERROR exactly when it is a SET that selects a level operand outside
[0,6]; the response names one such field and its operand byte, the registers and the trace are
unchanged, and the same SET repeated gives the same response again. -/
def Obligations.ValidationErrorNamesARejectedField : Prop :=
  statusCode .validationError = 0x01 ∧
  ∀ (i : Instr) (s : State), ∃ t r, exec i s = .next t ∧ t.responses = s.responses ++ [r] ∧
    (r.status = .validationError ↔ ∃ mask flags lightOp fanOp flameOp,
      i = .set mask flags lightOp fanOp flameOp ∧ setValid mask lightOp fanOp flameOp = false) ∧
    ∀ mask flags lightOp fanOp flameOp, i = .set mask flags lightOp fanOp flameOp →
      setValid mask lightOp fanOp flameOp = false →
      ((r.errField = 1 ∧ r.errValue = lightOp ∧ rejects mask lightOp 1 = true) ∨
        (r.errField = 5 ∧ r.errValue = fanOp ∧ rejects mask fanOp 5 = true) ∨
        (r.errField = 7 ∧ r.errValue = flameOp ∧ rejects mask flameOp 7 = true)) ∧
      t = { s with responses := s.responses ++ [r] } ∧
      exec i t = .next { t with responses := t.responses ++ [r] }

/-- When a SET passes validation and the radio is unavailable, the update stands, the response carries
TRANSMIT_UNAVAILABLE and the updated state, and nothing is emitted; a RESEND that then finds the radio
available hands over the packet of the kept state. The spec's decision D10 (assumption log 9). -/
def Obligations.UpdateStandsWhenTheRadioIsUnavailable : Prop :=
  statusCode .transmitUnavailable = 0x02 ∧
  ∀ (mask flags lightOp fanOp flameOp : Byte) (ignored : BitVec 32) (s : State),
    setValid mask lightOp fanOp flameOp = true → radioAvail s = false →
    ∃ t, exec (.set mask flags lightOp fanOp flameOp) s = .next t ∧
      t.fields = fieldsAfterSet mask flags lightOp fanOp flameOp s.fields ∧
      t.trace = s.trace ∧ t.cfg = s.cfg ∧ t.port = s.port ∧
      t.responses = s.responses ++ [⟨.transmitUnavailable, 0xFF, 0x00, snapshotOf t⟩] ∧
      (radioAvail t = true → ∃ u, exec (.resend ignored) t = .next u ∧ u.fields = t.fields ∧
        u.trace = s.trace ++ [⟨encodePacket s.cfg t.fields, 5⟩])

/-- What a command word is answered, first match wins: reserved opcode, light, fan, flame, radio
unavailable, OK (GET is never validated and never asks the radio). The order of the three level fields
is the spec's decision D9 (assumption log 10). -/
def Obligations.ErrorsAreReportedByPriority : Prop :=
  ∀ (s : State) (cw : CommandWord) (rest : List PortEvent), ∃ t r,
    step (presenting (.command cw) rest s) = .next t ∧ t.responses = s.responses ++ [r] ∧
    (r.status, r.errField, r.errValue) =
      (if cw.extractLsb' 40 8 ≠ 0x01#8 ∧ cw.extractLsb' 40 8 ≠ 0x02#8 then
         (Status.illegalCommand, 0xFF#8, cw.extractLsb' 40 8)
       else if cw.extractLsb' 40 8 = 0x02#8 then (Status.ok, 0xFF#8, 0x00#8)
       else if cw.getLsbD 33 ∧ 6 < (cw.extractLsb' 16 8).toNat then
         (Status.validationError, 1#8, cw.extractLsb' 16 8)
       else if cw.getLsbD 37 ∧ 6 < (cw.extractLsb' 8 8).toNat then
         (Status.validationError, 5#8, cw.extractLsb' 8 8)
       else if cw.getLsbD 39 ∧ 6 < (cw.extractLsb' 0 8).toNat then
         (Status.validationError, 7#8, cw.extractLsb' 0 8)
       else if radioAvail s = false then (Status.transmitUnavailable, 0xFF#8, 0x00#8)
       else (Status.ok, 0xFF#8, 0x00#8))

/-- The packet a command hands over is that of the entire state after it, all 7 words, with the count
5, and does not depend on the command or on what went before except through the state and the
configuration. -/
def Obligations.HandedPacketIsOfTheEntireState : Prop :=
  ∀ (i i' : Instr) (s s' t t' : State) (e e' : Transmit),
    exec i s = .next t → exec i' s' = .next t' →
    t.trace = s.trace ++ [e] → t'.trace = s'.trace ++ [e'] →
    (packetWords t.cfg t.fields).length = 7 ∧ e = ⟨encodePacket t.cfg t.fields, 5⟩ ∧
    (t.cfg = t'.cfg → t.fields = t'.fields → e = e')

/-! ### RESEND and GET -/

/-- A SET with an empty mask validates and writes nothing and hands the packet of the unchanged state
over, or answers TRANSMIT_UNAVAILABLE; RESEND is that SET. The spec's decision D21 (assumption log 14). -/
def Obligations.EmptySetHandsTheUnchangedStateOver : Prop :=
  ∀ (flags lightOp fanOp flameOp : Byte) (ignored : BitVec 32) (s : State),
    exec (.set 0 flags lightOp fanOp flameOp) s = .next
      (if radioAvail s then answered (transmitted (radioSampled s)) .ok 0xFF 0x00
       else answered (radioSampled s) .transmitUnavailable 0xFF 0x00) ∧
    exec (.resend ignored) s = exec (.set 0 flags lightOp fanOp flameOp) s

/-- RESEND completes: with the radio available it gives a next state with the packet of the unchanged
state handed over; every register and coming event is as before. -/
def Obligations.ResendCompletes : Prop :=
  ∀ (ignored : BitVec 32) (s : State), radioAvail s = true →
    ∃ t, exec (.resend ignored) s = .next t ∧ t.fields = s.fields ∧ t.cfg = s.cfg ∧
      t.port = s.port ∧ t.trace = s.trace ++ [⟨encodePacket s.cfg s.fields, 5⟩] ∧
      t.responses = s.responses ++ [⟨.ok, 0xFF, 0x00, snapshotOf s⟩] ∧
      t.radioAnswers = s.radioAnswers.tail

/-- GET completes in every state: it answers OK with the snapshot and changes nothing else, whatever
the low 40 bits are. -/
def Obligations.GetReadsTheStateAndChangesNothing : Prop :=
  ∀ (ignored : BitVec 40) (s : State),
    exec (.get ignored) s = .next { s with
      responses := s.responses ++ [⟨.ok, 0xFF, 0x00,
        ⟨s.cfg.serial0, s.cfg.serial1, s.cfg.serial2, s.fields⟩⟩] }

/-! ### Responses -/

/-- Every command word is answered once, with the snapshot of the state after the command; the
configuration and the rest of the port are as before. -/
def Obligations.EveryCommandIsAnsweredOnce : Prop :=
  ∀ (s : State) (cw : CommandWord) (rest : List PortEvent), ∃ t r,
    step (presenting (.command cw) rest s) = .next t ∧ t.responses = s.responses ++ [r] ∧
    r.snapshot = ⟨t.cfg.serial0, t.cfg.serial1, t.cfg.serial2, t.fields⟩ ∧
    t.cfg = s.cfg ∧ t.port = rest

/-- The fields of the 72-bit response word stand where the layout puts them. The spec's decision D8. -/
def Obligations.ResponseWordLayout : Prop :=
  ∀ r : Response,
    (rspWord r).extractLsb' 64 8 = statusCode r.status ∧
    (rspWord r).extractLsb' 56 8 = r.errField ∧
    (rspWord r).extractLsb' 48 8 = r.errValue ∧
    (rspWord r).extractLsb' 43 5 = 0 ∧
    (rspWord r).extractLsb' 34 9 = r.snapshot.serial0 ∧
    (rspWord r).extractLsb' 25 9 = r.snapshot.serial1 ∧
    (rspWord r).extractLsb' 16 9 = r.snapshot.serial2 ∧
    (rspWord r).extractLsb' 8 8 = cmd1 r.snapshot.fields ∧
    (rspWord r).extractLsb' 0 8 = cmd2 r.snapshot.fields

/-- A response word tells the whole response: two responses with the same word are the same. -/
def Obligations.ResponseWordDeterminesTheResponse : Prop :=
  ∀ r r' : Response, rspWord r = rspWord r' → r = r'

/-- The status codes, and which commands can return which: SET and RESEND OK, VALIDATION_ERROR (SET
only) or TRANSMIT_UNAVAILABLE, GET OK, a reserved opcode ILLEGAL_COMMAND; no other code is produced.
The spec's decision D7. -/
def Obligations.StatusCodesAndWhoReturnsThem : Prop :=
  statusCode .ok = 0x00 ∧ statusCode .validationError = 0x01 ∧
  statusCode .transmitUnavailable = 0x02 ∧ statusCode .illegalCommand = 0x03 ∧
  ∀ (s : State) (cw : CommandWord) (rest : List PortEvent), ∃ t r,
    step (presenting (.command cw) rest s) = .next t ∧ t.responses = s.responses ++ [r] ∧
    (statusCode r.status).toNat < 4 ∧
    (cw.extractLsb' 40 8 = 0x01#8 → statusCode r.status ≠ 0x03) ∧
    (cw.extractLsb' 40 8 = 0x02#8 → statusCode r.status = 0x00) ∧
    (cw.extractLsb' 32 16 = 0x0100#16 → statusCode r.status ≠ 0x01) ∧
    (cw.extractLsb' 40 8 ≠ 0x01#8 → cw.extractLsb' 40 8 ≠ 0x02#8 → statusCode r.status = 0x03)

/-! ### The words of a packet -/

/-- `Cmd1` places its four fields as the layout says, with bits 3 and 2 zero. -/
def Obligations.Cmd1Layout : Prop :=
  ∀ st : FieldRegs,
    (cmd1 st).toNat = (st.pilot.toNat <<< 7) ||| (st.light.toNat <<< 4) |||
      (st.thermostat.toNat <<< 1) ||| st.power.toNat

/-- `Cmd2` places its four fields as the layout says. -/
def Obligations.Cmd2Layout : Prop :=
  ∀ st : FieldRegs,
    (cmd2 st).toNat = (st.front.toNat <<< 7) ||| (st.fan.toNat <<< 4) |||
      (st.aux.toNat <<< 3) ||| st.flame.toNat

/-- The 12-bit scratch word is the byte followed by 4 zero bits, and has as many ones. -/
def Obligations.ScratchWordIsPaddedWithZeros : Prop :=
  ∀ c : Byte, (scratch12 c).toNat = c.toNat * 16 ∧
    (streamBits (scratch12 c)).count true = (streamBits c).count true

/-- The framed word of a command or checksum word is its 8 bits, in order, and a zero. -/
def Obligations.FramedWordIsTheByteAndAZero : Prop :=
  ∀ c : Byte, (framedWord c).toNat = c.toNat * 2 ∧
    streamBits (framedWord c) = streamBits c ++ [false] ∧
    streamBits (framedWord c) = (streamBits (scratch12 c)).take 9

/-- The packet: 7 words in order, each with the bit list its parity is computed over: the 9 bits of a
serial word (the spec's decision D14), the 12-bit scratch word of the others. -/
def Obligations.PacketIsSevenWordsInOrder : Prop :=
  ∀ (cfg : Cfg) (st : FieldRegs),
    (packetWords cfg st).map (·.data) =
      [cfg.serial0, cfg.serial1, cfg.serial2, cmd1 st ++ 0#1, cmd2 st ++ 0#1,
        ecc1 (cmd1 st) ++ 0#1, ecc2 (cmd2 st) ++ 0#1] ∧
    (packetWords cfg st).map (·.parityInput) =
      [streamBits cfg.serial0, streamBits cfg.serial1, streamBits cfg.serial2,
        streamBits (scratch12 (cmd1 st)), streamBits (scratch12 (cmd2 st)),
        streamBits (scratch12 (ecc1 (cmd1 st))), streamBits (scratch12 (ecc2 (cmd2 st)))]

/-- `Ecc1` is the document's formula on the two nibbles, with shifts that do not truncate. -/
def Obligations.Ecc1Formula : Prop :=
  ∀ c : Byte, let hi := c.toNat / 16; let lo := c.toNat % 16
    (ecc1 c).toNat = ((0xD ^^^ hi ^^^ (hi <<< 1) ^^^ (lo <<< 1)) &&& 0xF) * 16 + (hi ^^^ lo)

/-- `Ecc2` is the document's formula on the two nibbles, with shifts that do not truncate. -/
def Obligations.Ecc2Formula : Prop :=
  ∀ c : Byte, let hi := c.toNat / 16; let lo := c.toNat % 16
    (ecc2 c).toNat = ((hi ^^^ (hi <<< 1) ^^^ (lo <<< 1)) &&& 0xF) * 16 + (hi ^^^ lo ^^^ 0x7)

/-- Both checksums are injective, differ by 0xD7 on every byte, and are affine over exclusive or. -/
def Obligations.ChecksumsAreAffineBijections : Prop :=
  (∀ a b : Byte, ecc1 a = ecc1 b → a = b) ∧ (∀ a b : Byte, ecc2 a = ecc2 b → a = b) ∧
  (∀ c : Byte, ecc1 c ^^^ ecc2 c = 0xD7) ∧
  (∀ a b : Byte, ecc1 (a ^^^ b) = ecc1 a ^^^ ecc1 b ^^^ 0xD0) ∧
  (∀ a b : Byte, ecc2 (a ^^^ b) = ecc2 a ^^^ ecc2 b ^^^ 0x07)

/-- Packet word 5 depends on `cmd1` and nothing else, packet word 6 on `cmd2` and nothing else. -/
def Obligations.ChecksumsDependOnTheirCommandWordOnly : Prop :=
  ∀ (cfg cfg' : Cfg) (st st' : FieldRegs),
    (cmd1 st = cmd1 st' → (packetWords cfg st)[5]? = (packetWords cfg' st')[5]?) ∧
    (cmd2 st = cmd2 st' → (packetWords cfg st)[6]? = (packetWords cfg' st')[6]?)

/-! ### Frames -/

/-- In mode POPCOUNT the parity bit makes the number of ones even; in mode ALT it is what the open
function gives for the bit list. -/
def Obligations.ParityOfEachMode : Prop :=
  ∀ bl : Bits,
    (parity .popcount bl).toNat = bl.count true % 2 ∧
    (bl ++ [parity .popcount bl]).count true % 2 = 0 ∧
    parity .alt bl = Config.altParityFn bl

/-- In mode POPCOUNT the parity of every packet word is the parity of its 9 framed bits. -/
def Obligations.PopcountParityIsThatOfTheFramedBits : Prop :=
  ∀ (cfg : Cfg) (st : FieldRegs), ∀ w ∈ packetWords cfg st,
    (parity .popcount w.parityInput).toNat = (streamBits w.data).count true % 2

/-- The 22 symbols of a frame, position by position. -/
def Obligations.FrameIsTheTwentyTwoSymbols : Prop :=
  ∀ (d : Word9) (p : Bool),
    frame d p = [.start, .one, sym (d.getLsbD 8), sym (d.getLsbD 7), sym (d.getLsbD 6),
      sym (d.getLsbD 5), sym (d.getLsbD 4), sym (d.getLsbD 3), sym (d.getLsbD 2),
      sym (d.getLsbD 1), sym (d.getLsbD 0), sym p, .one, .idle, .idle, .idle, .idle, .idle,
      .idle, .idle, .idle, .idle] ∧
    sym false = .zero ∧ sym true = .one

/-- The framed stream has 154 symbols, and symbol `j` of word `k` is at position `22 k + j`. -/
def Obligations.FramedStreamPlacesSymbolJOfWordK : Prop :=
  ∀ (cfg : Cfg) (st : FieldRegs),
    (framedStream cfg st).length = 154 ∧
    ∀ k j, k < 7 → j < 22 → ∃ w, (packetWords cfg st)[k]? = some w ∧
      (framedStream cfg st)[22 * k + j]? =
        (frame w.data (parity cfg.parityMode w.parityInput))[j]?

/-- The invariants of the framed stream, for every state, configuration and parity mode: where the
start, idle and guard symbols stand, how many of each there are, and, in mode POPCOUNT, that every
frame has an even number of `1` symbols among its data and parity. -/
def Obligations.FramedStreamInvariants : Prop :=
  ∀ (cfg : Cfg) (st : FieldRegs),
    (∀ n, n < 154 → ((framedStream cfg st)[n]? = some .start ↔ n % 22 = 0) ∧
      ((framedStream cfg st)[n]? = some .idle ↔ 13 ≤ n % 22) ∧
      (n % 22 = 1 ∨ n % 22 = 12 → (framedStream cfg st)[n]? = some .one)) ∧
    (framedStream cfg st).count .start = 7 ∧ (framedStream cfg st).count .idle = 63 ∧
    (framedStream cfg st).count .zero + (framedStream cfg st).count .one = 84 ∧
    (cfg.parityMode = .popcount → ∀ k, k < 7 →
      (((framedStream cfg st).drop (22 * k + 2)).take 10).count .one % 2 = 0)

/-- The parity mode touches the parity symbols and nothing else: the line bits of two buffers of the
same state and serial words agree outside stream bits `44 k + 22` and `44 k + 23`. -/
def Obligations.ParityModeTouchesOnlyParitySymbols : Prop :=
  ∀ (cfg : Cfg) (mode : ParityMode) (st : FieldRegs) (b : Nat),
    b % 44 ≠ 22 → b % 44 ≠ 23 →
    (bitsOfBytes (encodePacket { cfg with parityMode := mode } st))[b]? =
      (bitsOfBytes (encodePacket cfg st))[b]?

/-! ### Line code and transmit buffer -/

/-- The line code is injective, the test-only decoder undoes it on every symbol sequence, and it undoes
the decoder on every bit sequence of even length. -/
def Obligations.LineCodeRoundTrip : Prop :=
  (∀ a b : Symbol, line a = line b → a = b) ∧
  (∀ ss : List Symbol, unlineStream (lineStream ss) = ss) ∧
  ∀ bs : Bits, bs.length % 2 = 0 → lineStream (unlineStream bs) = bs

/-- Where a line bit lies: bit `h` of the code of symbol `n` is stream bit `2 n + h`, for every symbol
sequence; and for a packet, with `n = 22 k + j`, this is stream bit `44 k + 2 j + h`. -/
def Obligations.LineBitIndex : Prop :=
  (∀ (ss : List Symbol) (n h : Nat) (x : Symbol), h < 2 → ss[n]? = some x →
    (lineStream ss)[2 * n + h]? = (line x)[h]?) ∧
  ∀ (cfg : Cfg) (st : FieldRegs) (k : Nat), k < 7 →
    ((lineStream (framedStream cfg st)).drop (44 * k)).take 4 = [true, true, true, false] ∧
    ((lineStream (framedStream cfg st)).drop (44 * k + 24)).take 20 =
      [true, false] ++ List.replicate 18 false

/-- For every state and configuration the stream has 308 bits, 98 of them ones, and the buffer has 39
bytes. -/
def Obligations.StreamAndBufferLengths : Prop :=
  ∀ (cfg : Cfg) (st : FieldRegs),
    (lineStream (framedStream cfg st)).length = 308 ∧
    (lineStream (framedStream cfg st)).count true = 98 ∧
    (lineStream (framedStream cfg st)).count false = 210 ∧
    (encodePacket cfg st).length = 39

/-- Packing puts stream bit `b` of any 308-bit sequence at bit `7 - (b mod 8)` of byte `b div 8`, and
makes 39 bytes of which the last has its low four bits zero (the spec's decision D15). -/
def Obligations.PackPutsEachBitInItsPlace : Prop :=
  ∀ bs : Bits, bs.length = 308 →
    (pack bs).length = 39 ∧
    (∀ b, b < 308 → ((pack bs)[b / 8]?).map (fun x => x.getLsbD (7 - b % 8)) = bs[b]?) ∧
    ((pack bs).getD 38 0).extractLsb' 0 4 = 0

/-- Every buffer ends in 22 zero bits, the four padding bits among them, so its last byte is 0. The
value of the padding is the spec's decision D15 (assumption log 11). -/
def Obligations.BufferEndsInTwentyTwoZeros : Prop :=
  ∀ (cfg : Cfg) (st : FieldRegs),
    (bitsOfBytes (encodePacket cfg st)).drop 290 = List.replicate 22 false ∧
    (encodePacket cfg st).getD 38 0xFF = 0x00

/-- The nibbles of every word in the buffer: the constant 0xE, five data nibbles of line codes, the
constant 0x8 and four zeros, and the padding nibble. -/
def Obligations.BufferNibblesOfEachWord : Prop :=
  ∀ (cfg : Cfg) (st : FieldRegs),
    (∀ k w, (packetWords cfg st)[k]? = some w →
      let nib := fun m => bufferNibble (encodePacket cfg st) (11 * k + m)
      let code := fun i => lineCode (w.data.getMsbD i)
      nib 0 = 0xE ∧ nib 1 = code 0 ++ code 1 ∧ nib 2 = code 2 ++ code 3 ∧
      nib 3 = code 4 ++ code 5 ∧ nib 4 = code 6 ++ code 7 ∧
      nib 5 = code 8 ++ lineCode (parity cfg.parityMode w.parityInput) ∧
      nib 6 = 0x8 ∧ nib 7 = 0 ∧ nib 8 = 0 ∧ nib 9 = 0 ∧ nib 10 = 0) ∧
    bufferNibble (encodePacket cfg st) 77 = 0

/-- The buffer decodes back: its bits in the radio's order, cut into pairs and undone by the test-only
line decoder, are the framed stream and two idle symbols for the padding. -/
def Obligations.BufferDecodesToTheFramedStream : Prop :=
  ∀ (cfg : Cfg) (st : FieldRegs),
    unlineStream (bitsOfBytes (encodePacket cfg st)) = framedStream cfg st ++ [.idle, .idle]

/-- The buffer tells the whole state: two states and configurations, under whatever parity modes, with
the same buffer have the same field registers and the same serial words. -/
def Obligations.BufferDeterminesStateAndSerials : Prop :=
  ∀ (cfg cfg' : Cfg) (st st' : FieldRegs), encodePacket cfg st = encodePacket cfg' st' →
    st = st' ∧ cfg.serial0 = cfg'.serial0 ∧ cfg.serial1 = cfg'.serial1 ∧ cfg.serial2 = cfg'.serial2

/-- TXBUF can be read a byte at a time at the addresses 0 to 38 and nowhere else. That another read is
a fault is the model's choice (assumption log 19). -/
def Obligations.TxbufHasThirtyNineByteAddresses : Prop :=
  ∀ (cfg : Cfg) (st : FieldRegs) (addr width : Nat),
    (width = 1 → addr ≤ 38 → ∃ b, (encodePacket cfg st)[addr]? = some b ∧
      txbufRead (encodePacket cfg st) addr width = .ok b) ∧
    (¬(width = 1 ∧ addr ≤ 38) →
      txbufRead (encodePacket cfg st) addr width = .error (.noTxbufByte addr width))

/-- What the spec assumes of hand-off `n` on the air: five emissions, each the 308 stream bits and the 4
padding bits, each starting with the two line bits of `S` and ending in a run of 22 zeros; between two
emissions a gap of free length, neither assumed nor excluded (U2, assumption log 20). The emitted bits
are the buffer's, five times over, whatever the gaps are. That the radio does not fail after taking the
hand-off is the model's choice (N20, assumption log 24). -/
def Obligations.HandOffOnTheAir : Prop :=
  ∀ (cfg : Cfg) (st : FieldRegs) (n : Nat),
    let bits := emission (encodePacket cfg st)
    let events := onAir n ⟨encodePacket cfg st, repeatCount⟩
    bits = lineStream (framedStream cfg st) ++ [false, false, false, false] ∧
    bits.take 2 = [true, true] ∧ bits.drop 290 = List.replicate 22 false ∧
    events = [.emission bits, .gap (Config.emissionGap n 0), .emission bits,
      .gap (Config.emissionGap n 1), .emission bits, .gap (Config.emissionGap n 2), .emission bits,
      .gap (Config.emissionGap n 3), .emission bits] ∧
    (emittedBits events).length = 1560 ∧
    ∀ b, b < 1560 → (emittedBits events)[b]? = bits[b % 312]?

/-! ### The whole machine -/

/-- Every step of every state has a next state: no event stops the core. -/
def Obligations.NoStepStopsTheCore : Prop :=
  ∀ s : State, ∃ t, step s = .next t

/-- Every step keeps the invariant `SafeState`: legal levels, only legal packets and responses since reset,
and no more packets than OK answers. -/
def Obligations.EveryStepKeepsTheInvariant : Prop :=
  ∀ s t : State, SafeState s → step s = .next t → SafeState t

/-- The invariant holds after reset, whatever configuration was sampled; of `State.reset` too, whose
zero serial words are the model's choice (assumption log 1). -/
def Obligations.InvariantHoldsAfterReset : Prop :=
  (∀ cfg : Cfg, SafeState (State.resetWith cfg)) ∧ SafeState State.reset

/-- No command changes the configuration: only a reset event does. -/
def Obligations.OnlyResetChangesTheConfiguration : Prop :=
  ∀ s t : State, step s = .next t → t.cfg ≠ s.cfg →
    ∃ cfg rest, s.port = .reset cfg :: rest ∧ t.cfg = cfg

/-- The output trace grows by exactly one event, the packet of the state after the command, when a
command reaches its hand-off and finds the radio available, and by nothing otherwise. -/
def Obligations.TraceGrowsOnlyByAHandOff : Prop :=
  ∀ (s : State) (cw : CommandWord) (rest : List PortEvent), ∃ t,
    step (presenting (.command cw) rest s) = .next t ∧
    t.trace = (if reachesHandOff cw ∧ radioAvail s
      then s.trace ++ [⟨encodePacket t.cfg t.fields, 5⟩] else s.trace)

/-- The radio is sampled exactly once by a command that reaches its hand-off and not at all by any
other: the model's own fields for the radio's answers (assumption log 3) move on by one answer or stay. -/
def Obligations.RadioIsSampledOnceByAHandOff : Prop :=
  ∀ (s : State) (cw : CommandWord) (rest : List PortEvent), ∃ t,
    step (presenting (.command cw) rest s) = .next t ∧
    (t.radioAnswers, t.radioDraws) =
      (if reachesHandOff cw then
        (s.radioAnswers.tail, s.radioDraws + (if s.radioAnswers = [] then 1 else 0))
       else (s.radioAnswers, s.radioDraws))

/-- What a command does depends on the registers, the configuration, the command word and the radio's
one answer alone: not on earlier commands, errors, packets or responses; and the packet, when there is
one, on the new registers and the configuration alone. -/
def Obligations.CommandDependsOnStateWordAndRadioOnly : Prop :=
  ∀ (s s' : State) (cw : CommandWord) (rest rest' : List PortEvent),
    s.fields = s'.fields → s.cfg = s'.cfg → radioAvail s = radioAvail s' →
    ∃ t t' r events,
      step (presenting (.command cw) rest s) = .next t ∧
      step (presenting (.command cw) rest' s') = .next t' ∧
      t.fields = t'.fields ∧ t.cfg = t'.cfg ∧
      t.responses = s.responses ++ [r] ∧ t'.responses = s'.responses ++ [r] ∧
      t.trace = s.trace ++ events ∧ t'.trace = s'.trace ++ events ∧
      ∀ e ∈ events, e = ⟨encodePacket t.cfg t.fields, 5⟩

/-- A run of any sequence of command words completes: one step each, one response each in order, the
port empty at the end, the configuration unchanged, and at most one packet per command. -/
def Obligations.CommandSequenceCompletes : Prop :=
  ∀ (cws : List CommandWord) (s : State), ∃ t,
    Host.Core.run Sys2Proof.core cws.length { s with port := cws.map .command } = .next t ∧
    t.port = [] ∧ t.cfg = s.cfg ∧
    (∃ rs : List Response, t.responses = s.responses ++ rs ∧ rs.length = cws.length) ∧
    ∃ es : List Transmit, t.trace = s.trace ++ es ∧
      es.length ≤ (cws.filter reachesHandOff).length

/-! ### Assembler -/

/-- Disassembling a command and assembling the result gives its word with every ignored bit cleared. -/
def Obligations.DisassembledCommandAssemblesToItsRelevantBits : Prop :=
  ∀ i : Instr, assemble (disassemble i) = some (encode i &&& relevantMask (encode i))
end

