-- ==== Sys2Proof/Laws/Datapath.lean ====
section
/-! SUPPORT. The small lemmas of the datapath's definitions. -/

namespace Sys2Proof.Machine

@[simp] theorem streamBits_length {n : Nat} (v : BitVec n) : (streamBits v).length = n := by
  simp [streamBits]

theorem streamBits_getElem? {n : Nat} (v : BitVec n) (p : Nat) (h : p < n) :
    (streamBits v)[p]? = some (v.getMsbD p) := by
  simp [streamBits, h]

@[simp] theorem streamBits_byteOfBits (b7 b6 b5 b4 b3 b2 b1 b0 : Bool) :
    streamBits (byteOfBits b7 b6 b5 b4 b3 b2 b1 b0) = [b7, b6, b5, b4, b3, b2, b1, b0] := by
  cases b7 <;> cases b6 <;> cases b5 <;> cases b4 <;> cases b3 <;> cases b2 <;> cases b1 <;>
    cases b0 <;> rfl

@[simp] theorem bytesOfBits_nil : bytesOfBits [] = [] := rfl

@[simp] theorem bytesOfBits_cons (b7 b6 b5 b4 b3 b2 b1 b0 : Bool) (rest : Bits) :
    bytesOfBits (b7 :: b6 :: b5 :: b4 :: b3 :: b2 :: b1 :: b0 :: rest) =
      byteOfBits b7 b6 b5 b4 b3 b2 b1 b0 :: bytesOfBits rest := rfl

@[simp] theorem bitsOfBytes_nil : bitsOfBytes [] = [] := rfl

@[simp] theorem bitsOfBytes_cons (b : Byte) (bytes : List Byte) :
    bitsOfBytes (b :: bytes) = streamBits b ++ bitsOfBytes bytes := by
  simp [bitsOfBytes]

/-- A sequence of at least eight bits, taken apart. -/
theorem eight_bits (bs : Bits) (h : 8 ≤ bs.length) : ∃ b7 b6 b5 b4 b3 b2 b1 b0 rest,
    bs = b7 :: b6 :: b5 :: b4 :: b3 :: b2 :: b1 :: b0 :: rest := by
  match bs, h with
  | b7 :: b6 :: b5 :: b4 :: b3 :: b2 :: b1 :: b0 :: rest, _ =>
    exact ⟨b7, b6, b5, b4, b3, b2, b1, b0, rest, rfl⟩

/-- Cutting into bytes and sending the bytes gives the bits back, for whole bytes. -/
theorem bitsOfBytes_bytesOfBits (n : Nat) (bs : Bits) (h : bs.length = 8 * n) :
    bitsOfBytes (bytesOfBits bs) = bs := by
  induction n generalizing bs with
  | zero => simp [List.length_eq_zero_iff.mp (by simpa using h)]
  | succ n ih =>
    obtain ⟨b7, b6, b5, b4, b3, b2, b1, b0, rest, rfl⟩ := eight_bits bs (by omega)
    simp only [List.length_cons] at h
    simp [ih rest (by omega)]

/-- The number of whole bytes in a bit sequence. -/
theorem bytesOfBits_length (n : Nat) (bs : Bits) (h : bs.length = 8 * n) :
    (bytesOfBits bs).length = n := by
  induction n generalizing bs with
  | zero => simp [List.length_eq_zero_iff.mp (by simpa using h)]
  | succ n ih =>
    obtain ⟨b7, b6, b5, b4, b3, b2, b1, b0, rest, rfl⟩ := eight_bits bs (by omega)
    simp only [List.length_cons] at h
    simp [ih rest (by omega)]

@[simp] theorem line_length (s : Symbol) : (line s).length = 2 := by cases s <;> rfl

@[simp] theorem line_sym (b : Bool) : line (sym b) = [b, !b] := by cases b <;> rfl

@[simp] theorem lineStream_append (ss ss' : List Symbol) :
    lineStream (ss ++ ss') = lineStream ss ++ lineStream ss' := by
  induction ss with
  | nil => rfl
  | cons s ss ih => simp [lineStream, ih]

@[simp] theorem lineStream_length (ss : List Symbol) : (lineStream ss).length = 2 * ss.length := by
  induction ss with
  | nil => rfl
  | cons s ss ih => simp [lineStream, ih]; omega

@[simp] theorem frame_length (d : Word9) (p : Bool) : (frame d p).length = 22 := by
  simp [frame, idleSymbols]

@[simp] theorem emittedBits_nil : emittedBits [] = [] := rfl

@[simp] theorem emittedBits_emission (bits : Bits) (rest : List AirEvent) :
    emittedBits (.emission bits :: rest) = bits ++ emittedBits rest := rfl

@[simp] theorem emittedBits_gap (length : Nat) (rest : List AirEvent) :
    emittedBits (.gap length :: rest) = emittedBits rest := rfl

/-- Air events one after the other emit their bits one after the other. -/
@[simp] theorem emittedBits_append (es es' : List AirEvent) :
    emittedBits (es ++ es') = emittedBits es ++ emittedBits es' := by
  induction es with
  | nil => rfl
  | cons e es ih => cases e <;> simp [ih]

/-- What a hand-off emits, whatever the gaps: the buffer's bits as often as the count says. -/
theorem emittedBits_onAir (n : Nat) (t : Transmit) :
    emittedBits (onAir n t) = (List.replicate t.count.toNat (emission t.buf)).flatten := by
  unfold onAir
  induction t.count.toNat with
  | zero => rfl
  | succ k ih =>
    rw [List.range_succ, List.flatMap_append, emittedBits_append, ih, List.replicate_succ',
      List.flatten_append]
    by_cases hk : k = 0 <;> simp [hk]

@[simp] theorem airOfTrace_length (trace : List Transmit) :
    (airOfTrace trace).length = trace.length := by
  simp [airOfTrace]

/-- What the radio's read of TXBUF can answer. -/
theorem txbufRead_cases (buf : List Byte) (addr width : Nat) :
    (width = 1 ∧ addr < txbufBytes ∧ txbufRead buf addr width = .ok (buf.getD addr 0)) ∨
    (¬(width = 1 ∧ addr < txbufBytes) ∧ txbufRead buf addr width = .error (.noTxbufByte addr width)) := by
  unfold txbufRead
  split
  · rename_i h
    exact .inl ⟨h.1, h.2, rfl⟩
  · rename_i h
    exact .inr ⟨h, rfl⟩

end Sys2Proof.Machine
end

