-- ==== Sys2Proof/Laws/Decode.lean ====
section
/-! SUPPORT. Slices of concatenations, with which the encoder's fields are read back. -/

namespace Sys2Proof

/-- A slice that lies in the high part of a concatenation. -/
theorem slice_append_high {m n start len : Nat} (x : BitVec m) (y : BitVec n) (h : n ≤ start) :
    (x ++ y).extractLsb' start len = x.extractLsb' (start - n) len := by
  apply BitVec.eq_of_getLsbD_eq
  intro i hi
  simp [BitVec.getLsbD_append, hi, show ¬ start + i < n by omega,
    show start + i - n = start - n + i by omega]

/-- A slice that lies in the low part of a concatenation. -/
theorem slice_append_low {m n start len : Nat} (x : BitVec m) (y : BitVec n) (h : start + len ≤ n) :
    (x ++ y).extractLsb' start len = y.extractLsb' start len := by
  apply BitVec.eq_of_getLsbD_eq
  intro i hi
  simp [BitVec.getLsbD_append, hi, show start + i < n by omega]

/-- The slice of all of a word. -/
theorem slice_whole {n : Nat} (x : BitVec n) : x.extractLsb' 0 n = x := by
  apply BitVec.eq_of_getLsbD_eq
  intro i hi
  simp [hi]

/-- Everything the decoder can answer. -/
theorem decode_cases (cw : CommandWord) :
    (opcodeByte cw = opcodeSet ∧ cw.extractLsb' 32 8 = (0 : Byte) ∧
      decode cw = .ok (.resend (cw.extractLsb' 0 32))) ∨
    (opcodeByte cw = opcodeSet ∧ cw.extractLsb' 32 8 ≠ (0 : Byte) ∧
      decode cw = .ok (.set (cw.extractLsb' 32 8) (cw.extractLsb' 24 8) (cw.extractLsb' 16 8)
        (cw.extractLsb' 8 8) (cw.extractLsb' 0 8))) ∨
    (opcodeByte cw = opcodeGet ∧ decode cw = .ok (.get (cw.extractLsb' 0 40))) ∨
    (opcodeByte cw ≠ opcodeSet ∧ opcodeByte cw ≠ opcodeGet ∧
      decode cw = .error (.illegalOpcode (opcodeByte cw))) := by
  by_cases hs : opcodeByte cw = opcodeSet
  · by_cases hm : cw.extractLsb' 32 8 = (0 : Byte)
    · exact .inl ⟨hs, hm, by rw [decode, if_pos hs, decodeSet, if_pos hm]⟩
    · exact .inr (.inl ⟨hs, hm, by rw [decode, if_pos hs, decodeSet, if_neg hm]⟩)
  · by_cases hg : opcodeByte cw = opcodeGet
    · exact .inr (.inr (.inl ⟨hg, by rw [decode, if_neg hs, if_pos hg]⟩))
    · exact .inr (.inr (.inr ⟨hs, hg, by rw [decode, if_neg hs, if_neg hg]⟩))

end Sys2Proof
end

