-- ==== Sys2Proof/Laws/State.lean ====
section
/-! SUPPORT. One lemma per field of State per update of Machine/Ops.lean and Safety.lean, so that no later
proof unfolds a record update. -/

namespace Sys2Proof.Machine

/-! ### respond -/

@[simp] theorem respond_fields (status : Status) (errField errValue : Byte) (s : State) :
    (respond status errField errValue s).fields = s.fields := rfl

@[simp] theorem respond_cfg (status : Status) (errField errValue : Byte) (s : State) :
    (respond status errField errValue s).cfg = s.cfg := rfl

@[simp] theorem respond_trace (status : Status) (errField errValue : Byte) (s : State) :
    (respond status errField errValue s).trace = s.trace := rfl

@[simp] theorem respond_responses (status : Status) (errField errValue : Byte) (s : State) :
    (respond status errField errValue s).responses = s.responses ++ [⟨status, errField, errValue, snapshotOf s⟩] := rfl

@[simp] theorem respond_port (status : Status) (errField errValue : Byte) (s : State) :
    (respond status errField errValue s).port = s.port := rfl

@[simp] theorem respond_radioAnswers (status : Status) (errField errValue : Byte) (s : State) :
    (respond status errField errValue s).radioAnswers = s.radioAnswers := rfl

@[simp] theorem respond_radioDraws (status : Status) (errField errValue : Byte) (s : State) :
    (respond status errField errValue s).radioDraws = s.radioDraws := rfl

/-! ### respondOk -/

@[simp] theorem respondOk_fields (s : State) :
    (respondOk s).fields = s.fields := rfl

@[simp] theorem respondOk_cfg (s : State) :
    (respondOk s).cfg = s.cfg := rfl

@[simp] theorem respondOk_trace (s : State) :
    (respondOk s).trace = s.trace := rfl

@[simp] theorem respondOk_responses (s : State) :
    (respondOk s).responses = s.responses ++ [⟨.ok, 0xFF, 0x00, snapshotOf s⟩] := rfl

@[simp] theorem respondOk_port (s : State) :
    (respondOk s).port = s.port := rfl

@[simp] theorem respondOk_radioAnswers (s : State) :
    (respondOk s).radioAnswers = s.radioAnswers := rfl

@[simp] theorem respondOk_radioDraws (s : State) :
    (respondOk s).radioDraws = s.radioDraws := rfl

/-! ### raiseError -/

@[simp] theorem raiseError_fields (e : CoreError) (s : State) :
    (raiseError e s).fields = s.fields := rfl

@[simp] theorem raiseError_cfg (e : CoreError) (s : State) :
    (raiseError e s).cfg = s.cfg := rfl

@[simp] theorem raiseError_trace (e : CoreError) (s : State) :
    (raiseError e s).trace = s.trace := rfl

@[simp] theorem raiseError_responses (e : CoreError) (s : State) :
    (raiseError e s).responses = s.responses ++ [⟨errorStatus e, errorField e, errorValue e, snapshotOf s⟩] := rfl

@[simp] theorem raiseError_port (e : CoreError) (s : State) :
    (raiseError e s).port = s.port := rfl

@[simp] theorem raiseError_radioAnswers (e : CoreError) (s : State) :
    (raiseError e s).radioAnswers = s.radioAnswers := rfl

@[simp] theorem raiseError_radioDraws (e : CoreError) (s : State) :
    (raiseError e s).radioDraws = s.radioDraws := rfl

/-! ### radioSampled -/

@[simp] theorem radioSampled_fields (s : State) :
    (radioSampled s).fields = s.fields := by
  unfold radioSampled; split <;> simp_all

@[simp] theorem radioSampled_cfg (s : State) :
    (radioSampled s).cfg = s.cfg := by
  unfold radioSampled; split <;> simp_all

@[simp] theorem radioSampled_trace (s : State) :
    (radioSampled s).trace = s.trace := by
  unfold radioSampled; split <;> simp_all

@[simp] theorem radioSampled_responses (s : State) :
    (radioSampled s).responses = s.responses := by
  unfold radioSampled; split <;> simp_all

@[simp] theorem radioSampled_port (s : State) :
    (radioSampled s).port = s.port := by
  unfold radioSampled; split <;> simp_all

@[simp] theorem radioSampled_radioAnswers (s : State) :
    (radioSampled s).radioAnswers = s.radioAnswers.tail := by
  unfold radioSampled; split <;> simp_all

@[simp] theorem radioSampled_radioDraws (s : State) :
    (radioSampled s).radioDraws = s.radioDraws + (if s.radioAnswers = [] then 1 else 0) := by
  unfold radioSampled; split <;> simp_all

/-! ### emitTransmit -/

@[simp] theorem emitTransmit_fields (s : State) :
    (emitTransmit s).fields = s.fields := rfl

@[simp] theorem emitTransmit_cfg (s : State) :
    (emitTransmit s).cfg = s.cfg := rfl

@[simp] theorem emitTransmit_trace (s : State) :
    (emitTransmit s).trace = s.trace ++ [⟨encodePacket s.cfg s.fields, 5⟩] := rfl

@[simp] theorem emitTransmit_responses (s : State) :
    (emitTransmit s).responses = s.responses := rfl

@[simp] theorem emitTransmit_port (s : State) :
    (emitTransmit s).port = s.port := rfl

@[simp] theorem emitTransmit_radioAnswers (s : State) :
    (emitTransmit s).radioAnswers = s.radioAnswers := rfl

@[simp] theorem emitTransmit_radioDraws (s : State) :
    (emitTransmit s).radioDraws = s.radioDraws := rfl

/-! ### applyReset -/

@[simp] theorem applyReset_fields (cfg : Cfg) (s : State) :
    (applyReset cfg s).fields = resetFields := rfl

@[simp] theorem applyReset_cfg (cfg : Cfg) (s : State) :
    (applyReset cfg s).cfg = cfg := rfl

@[simp] theorem applyReset_trace (cfg : Cfg) (s : State) :
    (applyReset cfg s).trace = [] := rfl

@[simp] theorem applyReset_responses (cfg : Cfg) (s : State) :
    (applyReset cfg s).responses = [] := rfl

@[simp] theorem applyReset_port (cfg : Cfg) (s : State) :
    (applyReset cfg s).port = s.port := rfl

@[simp] theorem applyReset_radioAnswers (cfg : Cfg) (s : State) :
    (applyReset cfg s).radioAnswers = s.radioAnswers := rfl

@[simp] theorem applyReset_radioDraws (cfg : Cfg) (s : State) :
    (applyReset cfg s).radioDraws = s.radioDraws := rfl

/-! ### present -/

@[simp] theorem present_fields (e : PortEvent) (s : State) :
    (present e s).fields = s.fields := rfl

@[simp] theorem present_cfg (e : PortEvent) (s : State) :
    (present e s).cfg = s.cfg := rfl

@[simp] theorem present_trace (e : PortEvent) (s : State) :
    (present e s).trace = s.trace := rfl

@[simp] theorem present_responses (e : PortEvent) (s : State) :
    (present e s).responses = s.responses := rfl

@[simp] theorem present_port (e : PortEvent) (s : State) :
    (present e s).port = s.port ++ [e] := rfl

@[simp] theorem present_radioAnswers (e : PortEvent) (s : State) :
    (present e s).radioAnswers = s.radioAnswers := rfl

@[simp] theorem present_radioDraws (e : PortEvent) (s : State) :
    (present e s).radioDraws = s.radioDraws := rfl

/-! ### presentNext -/

@[simp] theorem presentNext_fields (nbits w : Nat) (s : State) :
    (presentNext nbits w s).fields = s.fields := rfl

@[simp] theorem presentNext_cfg (nbits w : Nat) (s : State) :
    (presentNext nbits w s).cfg = s.cfg := rfl

@[simp] theorem presentNext_trace (nbits w : Nat) (s : State) :
    (presentNext nbits w s).trace = s.trace := rfl

@[simp] theorem presentNext_responses (nbits w : Nat) (s : State) :
    (presentNext nbits w s).responses = s.responses := rfl

@[simp] theorem presentNext_port (nbits w : Nat) (s : State) :
    (presentNext nbits w s).port = .command (commandOfTableWord nbits w) :: s.port := rfl

@[simp] theorem presentNext_radioAnswers (nbits w : Nat) (s : State) :
    (presentNext nbits w s).radioAnswers = s.radioAnswers := rfl

@[simp] theorem presentNext_radioDraws (nbits w : Nat) (s : State) :
    (presentNext nbits w s).radioDraws = s.radioDraws := rfl

/-! ### takeIllegal -/

@[simp] theorem takeIllegal_fields (opcode : Byte) (s : State) :
    (takeIllegal (.illegalOpcode opcode) s).fields = s.fields := rfl

@[simp] theorem takeIllegal_cfg (opcode : Byte) (s : State) :
    (takeIllegal (.illegalOpcode opcode) s).cfg = s.cfg := rfl

@[simp] theorem takeIllegal_trace (opcode : Byte) (s : State) :
    (takeIllegal (.illegalOpcode opcode) s).trace = s.trace := rfl

@[simp] theorem takeIllegal_responses (opcode : Byte) (s : State) :
    (takeIllegal (.illegalOpcode opcode) s).responses = s.responses ++ [⟨.illegalCommand, 0xFF, opcode, snapshotOf s⟩] := rfl

@[simp] theorem takeIllegal_port (opcode : Byte) (s : State) :
    (takeIllegal (.illegalOpcode opcode) s).port = s.port := rfl

@[simp] theorem takeIllegal_radioAnswers (opcode : Byte) (s : State) :
    (takeIllegal (.illegalOpcode opcode) s).radioAnswers = s.radioAnswers := rfl

@[simp] theorem takeIllegal_radioDraws (opcode : Byte) (s : State) :
    (takeIllegal (.illegalOpcode opcode) s).radioDraws = s.radioDraws := rfl

/-! ### handOff -/

@[simp] theorem handOff_fields (s : State) :
    (handOff s).fields = s.fields := by
  unfold handOff; split <;> simp [*]

@[simp] theorem handOff_cfg (s : State) :
    (handOff s).cfg = s.cfg := by
  unfold handOff; split <;> simp [*]

@[simp] theorem handOff_trace (s : State) :
    (handOff s).trace = (if radioAvail s then s.trace ++ [⟨encodePacket s.cfg s.fields, 5⟩] else s.trace) := by
  unfold handOff; split <;> simp [*]

@[simp] theorem handOff_responses (s : State) :
    (handOff s).responses = s.responses ++ [if radioAvail s then ⟨.ok, 0xFF, 0x00, snapshotOf s⟩
      else ⟨.transmitUnavailable, 0xFF, 0x00, snapshotOf s⟩] := by
  unfold handOff; split <;> simp [*, snapshotOf, errorStatus, errorField, errorValue, noErrField, noErrValue]

@[simp] theorem handOff_port (s : State) :
    (handOff s).port = s.port := by
  unfold handOff; split <;> simp [*]

@[simp] theorem handOff_radioAnswers (s : State) :
    (handOff s).radioAnswers = s.radioAnswers.tail := by
  unfold handOff; split <;> simp [*]

@[simp] theorem handOff_radioDraws (s : State) :
    (handOff s).radioDraws = s.radioDraws + (if s.radioAnswers = [] then 1 else 0) := by
  unfold handOff; split <;> simp [*]

/-! ### The terms of the statements -/

@[simp] theorem presenting_port (e : PortEvent) (rest : List PortEvent) (s : State) :
    (presenting e rest s).port = e :: rest := rfl

@[simp] theorem answered_fields (s : State) (status : Status) (f v : Byte) :
    (answered s status f v).fields = s.fields := rfl

@[simp] theorem answered_trace (s : State) (status : Status) (f v : Byte) :
    (answered s status f v).trace = s.trace := rfl

@[simp] theorem transmitted_fields (s : State) : (transmitted s).fields = s.fields := rfl

@[simp] theorem transmitted_cfg (s : State) : (transmitted s).cfg = s.cfg := rfl

/-! ### Reading through updates -/

/-- The snapshot looks at the registers and the configuration only. -/
theorem snapshotOf_congr (s s' : State) (hf : s.fields = s'.fields) (hc : s.cfg = s'.cfg) :
    snapshotOf s = snapshotOf s' := by
  simp [snapshotOf, hf, hc]

/-- What the radio answers next looks at the environment's fields only. -/
theorem radioAvail_congr (s s' : State) (ha : s.radioAnswers = s'.radioAnswers)
    (hd : s.radioDraws = s'.radioDraws) : radioAvail s = radioAvail s' := by
  simp [radioAvail, ha, hd]

/-- Writing the registers does not change the radio's answer. -/
@[simp] theorem radioAvail_withFields (s : State) (st : FieldRegs) :
    radioAvail { s with fields := st } = radioAvail s := radioAvail_congr _ _ rfl rfl

/-- Taking an event of the port does not change the radio's answer. -/
@[simp] theorem radioAvail_withPort (s : State) (port : List PortEvent) :
    radioAvail { s with port := port } = radioAvail s := radioAvail_congr _ _ rfl rfl

end Sys2Proof.Machine
end

