-- ==== Sys2Proof/Laws/Ops.lean ====
section
/-! SUPPORT. For each shared operation, once, everything it can do; and the inversion of one step. -/

namespace Sys2Proof.Machine

/-! ### The port -/

theorem takeEvent_nil (s : State) (h : s.port = []) : takeEvent s = none := by
  simp [takeEvent, h]

theorem takeEvent_cons (s : State) (e : PortEvent) (rest : List PortEvent) (h : s.port = e :: rest) :
    takeEvent s = some (e, { s with port := rest }) := by
  simp [takeEvent, h]

/-! ### Validation and update of a SET -/

/-- The model's range test is the statements' `rejects`. -/
theorem outOfRange_eq_rejects (mask op : Byte) (f : Field) :
    outOfRange mask op f = rejects mask op (fieldNumber f) := by
  simp [outOfRange, rejects, selects, levelMax, BitVec.lt_def]

/-- What validation can answer: the first rejected level field, or nothing when the SET is valid. -/
theorem firstInvalid_cases (mask lightOp fanOp flameOp : Byte) :
    (rejects mask lightOp 1 = true ∧
      firstInvalid mask lightOp fanOp flameOp = some (.validation .light lightOp)) ∨
    (rejects mask lightOp 1 = false ∧ rejects mask fanOp 5 = true ∧
      firstInvalid mask lightOp fanOp flameOp = some (.validation .fan fanOp)) ∨
    (rejects mask lightOp 1 = false ∧ rejects mask fanOp 5 = false ∧ rejects mask flameOp 7 = true ∧
      firstInvalid mask lightOp fanOp flameOp = some (.validation .flame flameOp)) ∨
    (setValid mask lightOp fanOp flameOp = true ∧
      firstInvalid mask lightOp fanOp flameOp = none) := by
  simp only [firstInvalid, outOfRange_eq_rejects, fieldNumber, setValid]
  cases rejects mask lightOp 1 <;> cases rejects mask fanOp 5 <;> cases rejects mask flameOp 7 <;> simp

/-- A SET is valid exactly when validation finds nothing. -/
theorem setValid_iff_firstInvalid (mask lightOp fanOp flameOp : Byte) :
    setValid mask lightOp fanOp flameOp = true ↔ firstInvalid mask lightOp fanOp flameOp = none := by
  rcases firstInvalid_cases mask lightOp fanOp flameOp with
    ⟨h, h'⟩ | ⟨-, h, h'⟩ | ⟨-, -, h, h'⟩ | ⟨h, h'⟩
  · simp [h, h', setValid]
  · simp [h, h', setValid]
  · simp [h, h', setValid]
  · simp [h, h']

/-- The low three bits of an operand, as a number modulo 8. -/
theorem levelOperand_eq_ofNat (op : Byte) : levelOperand op = BitVec.ofNat 3 op.toNat := by
  apply BitVec.eq_of_toNat_eq
  simp [levelOperand, BitVec.extractLsb'_toNat]

/-- The model's update is the pseudocode's, bit by bit. -/
theorem applyUpdates_eq_fieldsAfterSet (mask flags lightOp fanOp flameOp : Byte) (st : FieldRegs) :
    applyUpdates mask flags lightOp fanOp flameOp st =
      fieldsAfterSet mask flags lightOp fanOp flameOp st := by
  simp [applyUpdates, fieldsAfterSet, boolUpdate, levelUpdate, selects, flagOperand, fieldNumber,
    levelOperand_eq_ofNat]

/-- An operand that is not rejected leaves a level of at most 6. -/
theorem levelUpdate_le (mask op : Byte) (f : Field) (old : Level) (hold : old ≤ 6)
    (h : outOfRange mask op f = false) : levelUpdate mask op f old ≤ 6 := by
  unfold levelUpdate
  split
  · rename_i hs
    have h6 : op.toNat ≤ 6 := by
      simpa [outOfRange, hs, levelMax, BitVec.lt_def] using h
    rw [levelOperand_eq_ofNat, BitVec.le_def]
    simp only [BitVec.toNat_ofNat]
    change op.toNat % 8 ≤ 6
    omega
  · exact hold

/-- A valid update keeps the levels legal (10_state.md R12). -/
theorem applyUpdates_levelsLegal (mask flags lightOp fanOp flameOp : Byte) (st : FieldRegs)
    (h : levelsLegal st) (hv : firstInvalid mask lightOp fanOp flameOp = none) :
    levelsLegal (applyUpdates mask flags lightOp fanOp flameOp st) := by
  have hv := (setValid_iff_firstInvalid mask lightOp fanOp flameOp).mpr hv
  simp only [setValid, Bool.and_eq_true, Bool.not_eq_true'] at hv
  exact ⟨levelUpdate_le _ _ _ _ h.1 (by rw [outOfRange_eq_rejects]; exact hv.1.1),
    levelUpdate_le _ _ _ _ h.2.1 (by rw [outOfRange_eq_rejects]; exact hv.1.2),
    levelUpdate_le _ _ _ _ h.2.2 (by rw [outOfRange_eq_rejects]; exact hv.2)⟩

/-! ### The hand-off -/

/-- What the hand-off can do: transmit and answer OK, or answer TRANSMIT_UNAVAILABLE. -/
theorem handOff_cases (s : State) :
    (radioAvail s = true ∧ handOff s = respondOk (emitTransmit (radioSampled s))) ∨
    (radioAvail s = false ∧ handOff s = raiseError .transmitUnavailable (radioSampled s)) := by
  unfold handOff
  cases radioAvail s <;> simp

/-! ### Errors -/

@[simp] theorem errorStatus_validation (f : Field) (v : Byte) :
    errorStatus (.validation f v) = .validationError := rfl

@[simp] theorem errorStatus_transmitUnavailable :
    errorStatus .transmitUnavailable = .transmitUnavailable := rfl

@[simp] theorem errorStatus_illegalCommand (o : Byte) :
    errorStatus (.illegalCommand o) = .illegalCommand := rfl

@[simp] theorem errorField_light (v : Byte) : errorField (.validation .light v) = 1 := rfl

@[simp] theorem errorField_fan (v : Byte) : errorField (.validation .fan v) = 5 := rfl

@[simp] theorem errorField_flame (v : Byte) : errorField (.validation .flame v) = 7 := rfl

@[simp] theorem errorField_transmitUnavailable : errorField .transmitUnavailable = 0xFF := rfl

@[simp] theorem errorField_illegalCommand (o : Byte) : errorField (.illegalCommand o) = 0xFF := rfl

@[simp] theorem errorValue_validation (f : Field) (v : Byte) : errorValue (.validation f v) = v := rfl

@[simp] theorem errorValue_transmitUnavailable : errorValue .transmitUnavailable = 0 := rfl

@[simp] theorem errorValue_illegalCommand (o : Byte) : errorValue (.illegalCommand o) = o := rfl

/-! ### The meanings -/

/-- What a SET can do: raise one validation error on the state as it is, or update and hand over. -/
theorem execSet_cases (mask flags lightOp fanOp flameOp : Byte) (s : State) :
    (∃ field value, firstInvalid mask lightOp fanOp flameOp = some (.validation field value) ∧
      execSet mask flags lightOp fanOp flameOp s = .next (raiseError (.validation field value) s)) ∨
    (firstInvalid mask lightOp fanOp flameOp = none ∧
      execSet mask flags lightOp fanOp flameOp s =
        .next (handOff { s with fields := applyUpdates mask flags lightOp fanOp flameOp s.fields })) := by
  rcases firstInvalid_cases mask lightOp fanOp flameOp with
    ⟨-, h⟩ | ⟨-, -, h⟩ | ⟨-, -, -, h⟩ | ⟨-, h⟩
  · exact .inl ⟨_, _, h, by simp [execSet, h]⟩
  · exact .inl ⟨_, _, h, by simp [execSet, h]⟩
  · exact .inl ⟨_, _, h, by simp [execSet, h]⟩
  · exact .inr ⟨h, by simp [execSet, h]⟩

/-- What every meaning does: one next state with one more response, which shows the state after the
command; the configuration and the port are as before. -/
theorem exec_answers (i : Instr) (s : State) : ∃ t r, exec i s = .next t ∧
    t.responses = s.responses ++ [r] ∧ r.snapshot = snapshotOf t ∧ t.cfg = s.cfg ∧ t.port = s.port := by
  cases i with
  | set mask flags lightOp fanOp flameOp =>
    rcases execSet_cases mask flags lightOp fanOp flameOp s with ⟨_, _, -, h⟩ | ⟨-, h⟩
    · exact ⟨_, _, h, rfl, rfl, rfl, rfl⟩
    · exact ⟨_, _, h, handOff_responses _, by split <;> simp [snapshotOf], by simp, by simp⟩
  | get _ => exact ⟨_, _, rfl, rfl, rfl, rfl, rfl⟩
  | resend _ => exact ⟨_, _, rfl, handOff_responses _, by split <;> simp [snapshotOf], by simp, by simp⟩

/-! ### One step -/

/-- A step at a presented command word, as the decoder reads it. -/
theorem step_presenting_command (cw : CommandWord) (rest : List PortEvent) (s : State) :
    step (presenting (.command cw) rest s) =
      match decode cw with
      | .ok i => exec i { s with port := rest }
      | .error e => .next (takeIllegal e { s with port := rest }) := rfl

/-- What a step can do: hold, reset, execute a decoded command, or answer an illegal word. -/
theorem step_cases (s t : State) (h : step s = .next t) :
    (s.port = [] ∧ t = s) ∨
    (∃ cfg rest, s.port = .reset cfg :: rest ∧ t = applyReset cfg { s with port := rest }) ∨
    (∃ cw rest i, s.port = .command cw :: rest ∧ decode cw = .ok i ∧
      exec i { s with port := rest } = .next t) ∨
    (∃ cw rest e, s.port = .command cw :: rest ∧ decode cw = .error e ∧
      t = takeIllegal e { s with port := rest }) := by
  cases hp : s.port with
  | nil =>
    rw [step, takeEvent_nil s hp] at h
    exact .inl ⟨rfl, by cases h; rfl⟩
  | cons e rest =>
    rw [step, takeEvent_cons s e rest hp] at h
    cases e with
    | reset cfg => exact .inr (.inl ⟨cfg, rest, rfl, by cases h; rfl⟩)
    | command cw =>
      cases hd : decode cw with
      | ok i => exact .inr (.inr (.inl ⟨cw, rest, i, rfl, hd, by simpa [hd] using h⟩))
      | error e => exact .inr (.inr (.inr ⟨cw, rest, e, rfl, hd, by simp [hd] at h; exact h.symm⟩))

end Sys2Proof.Machine
end

