-- ==== Sys2Proof/Laws/PerInstr.lean ====
section
/-! SUPPORT. Statements made per constructor of Instr. -/

namespace Sys2Proof.Laws.EncodedOpcode

/-- The opcode byte of an encoded command is one of the two the decoder accepts (30_encoding.md R45). -/
def Statement (i : Instr) : Prop :=
  opcodeByte (encode i) = opcodeSet ∨ opcodeByte (encode i) = opcodeGet

theorem set (mask flags lightOp fanOp flameOp : Byte) :
    Statement (.set mask flags lightOp fanOp flameOp) := by
  left
  unfold opcodeByte encode
  rw [slice_append_high, slice_append_high, slice_append_high, slice_append_high, slice_append_high]
  · exact slice_whole _
  all_goals omega

theorem get (ignored : BitVec 40) : Statement (.get ignored) := by
  right
  unfold opcodeByte encode
  rw [slice_append_high]
  · exact slice_whole _
  · omega

theorem resend (ignored : BitVec 32) : Statement (.resend ignored) := by
  left
  unfold opcodeByte encode
  rw [slice_append_high, slice_append_high]
  · exact slice_whole _
  all_goals omega

end Sys2Proof.Laws.EncodedOpcode
end

