-- ==== Sys2Proof/Tests/Slice0.lean ====
section
/-! SUPPORT. Tests: expected values are those of spec/95_test_vectors.md (computed there from the rules,
not by this model) or are worked out by hand from the rule named; and for each statement with hypotheses
a witness that meets them. -/

namespace Sys2Proof.Tests.Slice0

open Sys2Proof Sys2Proof.Machine

/-- `SERIAL_T` of 95_test_vectors.md. -/
def cfgT : Cfg := ⟨0x1A5, 0x0C3, 0x1FE, .popcount⟩

/-- The reset state with `SERIAL_T` and the radio's next answer. -/
def resetT (avail : Bool) : State := { State.resetWith cfgT with radioAnswers := [avail] }

/-- The state of an outcome; the reset state for a stop. -/
def stateOf (o : Host.Outcome State Fault Refusal) : State :=
  match o with
  | .next s => s
  | .fault _ => State.reset
  | .refused _ => State.reset

/-- One command word at the reset state. -/
def oneStep (cw : CommandWord) (avail : Bool) : State :=
  stateOf (step (presenting (.command cw) [] (resetT avail)))

/-! ### Well-formed terms and decoding -/

theorem test_wellFormed_refuses_set_with_empty_mask :
    (Instr.set 0x00 0xFF 1 2 3).wellFormed = false := by decide

/-- R46, written bit by bit: opcode 1, mask bits 5 and 7, fan 3, flame 6. -/
theorem test_decode_set_word :
    decode 0b000000011010000000000000000000000000001100000110#48 = .ok (.set 0xA0 0 0 3 6) := by decide

/-- R47: opcode 2; the low 40 bits are kept as they are. -/
theorem test_decode_get_word :
    decode 0b000000100000000000000000000000000000000000000001#48 = .ok (.get 1) := by decide

/-- R56: opcode 1, mask 0, everything else ones. -/
theorem test_decode_resend_word :
    decode 0b000000010000000011111111111111111111111111111111#48 = .ok (.resend 0xFFFFFFFF) := by decide

theorem test_decode_refuses_opcode_zero : decode 0x000000000000 = .error (.illegalOpcode 0) := by decide

theorem test_decodeTableWord_set :
    decodeTableWord 48 0x010808000000 = some (.set 8 8 0 0 0) := by decide

/-! ### The datapath -/

/-- V-E8: every byte of a packet with all kinds of field set. -/
theorem test_encodePacket_V_E8 : encodePacket cfgT ⟨true, 3, false, true, true, 2, true, 5⟩ =
    [0xEA, 0x65, 0x9A, 0x80, 0x00, 0x0E, 0x69, 0x56, 0x98, 0x00, 0x00, 0xEA, 0xAA, 0xA5, 0x80, 0x00,
     0x0E, 0x9A, 0x56, 0x58, 0x00, 0x00, 0xE9, 0x9A, 0x66, 0x80, 0x00, 0x0E, 0x59, 0x99, 0x68, 0x00,
     0x00, 0xE6, 0x55, 0x56, 0x80, 0x00, 0x00] := by decide +kernel

/-- V-C1 and the worked examples of R100 and R101. -/
theorem test_checksums_V_C1 : ecc1 0x92 = 0x2B ∧ ecc1 0xE3 = 0x9D ∧ ecc2 0x36 = 0x92 ∧
    ecc2 0xAD = 0x40 := by decide

/-- V-L3. -/
theorem test_unlineStream_V_L3 :
    unlineStream [true, true, true, false, false, true, false, false, false, false, false, true,
      true, false, true, true] =
      [.start, .one, .zero, .idle, .idle, .zero, .one, .start] := by decide

/-- R31: the last address of TXBUF and the first that does not exist. -/
theorem test_txbufRead_edges :
    txbufRead (encodePacket cfgT resetFields) 0 1 = .ok 0xEA ∧
    txbufRead (encodePacket cfgT resetFields) 38 1 = .ok 0x00 ∧
    txbufRead (encodePacket cfgT resetFields) 39 1 = .error (.noTxbufByte 39 1) := by decide +kernel

/-! ### Commands, one step each (V-S2) -/

/-- `SET power=1`, radio available: response and packet V-E4. -/
theorem test_set_transmits : (oneStep 0x010808000000 true).responses.map rspWord = [0x00FF00069587FE8100] ∧
    (oneStep 0x010808000000 true).trace =
      [⟨encodePacket cfgT ⟨true, 0, false, true, false, 0, false, 0⟩, 5⟩] := by decide +kernel

/-- `SET light=200, fan=7`, radio unavailable: light is reported, nothing changes. -/
theorem test_set_rejects : (oneStep 0x012200C80700 false).responses.map rspWord = [0x0101C8069587FE8000] ∧
    (oneStep 0x012200C80700 false).fields = resetFields ∧
    (oneStep 0x012200C80700 false).radioAnswers = [false] := by decide +kernel

/-- `GET` after reset (R76). -/
theorem test_get_reads : (oneStep 0x020000000000 false).responses.map rspWord = [0x00FF00069587FE8000] ∧
    (oneStep 0x020000000000 false).trace = [] := by decide +kernel

/-- `RESEND` with ones in the ignored bits: the packet of the reset state, V-E3. -/
theorem test_resend_transmits :
    (oneStep 0x0100FFFFFFFF true).responses.map rspWord = [0x00FF00069587FE8000] ∧
    (oneStep 0x0100FFFFFFFF true).trace.map (·.buf) =
      [[0xEA, 0x65, 0x9A, 0x80, 0x00, 0x0E, 0x69, 0x56, 0x98, 0x00, 0x00, 0xEA, 0xAA, 0xA5, 0x80, 0x00,
        0x0E, 0x95, 0x55, 0x68, 0x00, 0x00, 0xE5, 0x55, 0x55, 0x80, 0x00, 0x0E, 0x66, 0x95, 0x68, 0x00,
        0x00, 0xE5, 0x56, 0xA6, 0x80, 0x00, 0x00]] := by decide +kernel

/-- P3, steps 1 and 3: the radio unavailable. -/
theorem test_resend_unavailable : (oneStep 0x010000000000 false).responses.map rspWord =
    [0x02FF00069587FE8000] ∧ (oneStep 0x010000000000 false).trace = [] := by decide +kernel

/-- An illegal word echoes its opcode byte and does not sample the radio. -/
theorem test_illegal_word : (oneStep 0x7F0000123456 true).responses.map rspWord = [0x03FF7F069587FE8000] ∧
    (oneStep 0x7F0000123456 true).radioAnswers = [true] := by decide +kernel

/-- The host's question of a SET word at `State.reset`: the step runs it (here up to the radio's answer). -/
theorem test_withFetchWord_runs :
    step (State.withFetchWord State.reset 48 0x010200070000) = exec (.set 2 0 7 0 0) State.reset := rfl

/-! ### Assembler (V-S1) -/

theorem test_assemble_V_S1 :
    (parse ['S', 'E', 'T', ' ', 'f', 'a', 'n', '=', '3', ',', ' ', 'f', 'l', 'a', 'm', 'e', '=', '6']).bind
      assemble = some 0x01A000000306 := by decide +kernel

theorem test_assemble_refuses_a_repeated_field :
    assemble (.set [.flag .power true, .flag .power false]) = none := by decide

theorem test_asmText_prints_in_field_order :
    asmText (disassemble (.set 0x88 0xFF 200 200 9)) =
      ['S', 'E', 'T', ' ', 'p', 'o', 'w', 'e', 'r', '=', '1', ',', ' ', 'f', 'l', 'a', 'm', 'e', '=', '9'] := by
  decide +kernel

/-! ### Witnesses: the hypotheses of the statements can be met -/

theorem witness_DecodeOfEncodeGivesTheCommandBack :
    (Instr.set 0x01 0xFF 0xFF 0xFF 0xFF).wellFormed = true ∧ (Instr.get 0xFFFFFFFFFF).wellFormed = true ∧
    (Instr.resend 0xFFFFFFFF).wellFormed = true := by decide

theorem witness_EncodeOfDecodeGivesTheWordBack :
    decode 0x01FFFFFFFFFF = .ok (.set 0xFF 0xFF 0xFF 0xFF 0xFF) := by decide

theorem witness_DecoderRejectsExactlyReservedOpcodes :
    decode 0x000000000000 = .error (.illegalOpcode 0x00) ∧
    decode 0x030000000000 = .error (.illegalOpcode 0x03) ∧
    decode 0xFF0000000000 = .error (.illegalOpcode 0xFF) := by decide

theorem witness_StepRunsTheDecodedCommand : decode 0x010200060000 = .ok (.set 2 0 6 0 0) := by decide

theorem witness_IllegalWordIsAnsweredAndChangesNothing :
    (0x030000000000#48).extractLsb' 40 8 ≠ 0x01#8 ∧ (0x030000000000#48).extractLsb' 40 8 ≠ 0x02#8 := by
  decide

theorem witness_IgnoredBitsHaveNoEffect :
    0x0104FAC8C8C8#48 &&& relevantMask 0x0104FAC8C8C8 = 0x010400000000#48 &&& relevantMask 0x0104FAC8C8C8 ∧
    assemble (.set [.flag .thermostat false]) = some 0x010400000000 := by decide

theorem witness_SetCompletes : setValid 0xFF 6 6 6 = true ∧ radioAvail (resetT true) = true := by decide

/-- A reset and a SET after which a field differs. -/
theorem witness_SetIsAtomicAndTheOnlyFieldWriter :
    (∃ t, step (presenting (.command 0x010808000000) [] (resetT true)) = .next t ∧
      t.fields ≠ resetFields) ∧
    ∃ t, step (presenting (.reset cfgT) []
        { resetT true with fields := ⟨false, 6, true, true, true, 6, true, 6⟩ }) = .next t ∧
      t.fields ≠ ⟨false, 6, true, true, true, 6, true, 6⟩ :=
  ⟨⟨_, rfl, by decide +kernel⟩, ⟨_, rfl, by decide⟩⟩

/-- Each of the three fields at the first rejected value, 7. -/
theorem witness_ValidationErrorNamesARejectedField :
    setValid 0x02 7 0 0 = false ∧ setValid 0x20 0 7 0 = false ∧ setValid 0x80 0 0 7 = false := by decide

/-- A valid SET, the radio unavailable, and available for the RESEND that follows. -/
theorem witness_UpdateStandsWhenTheRadioIsUnavailable :
    setValid 0xA0 255 3 6 = true ∧
    radioAvail { resetT false with radioAnswers := [false, true] } = false ∧
    radioAvail (stateOf (exec (.set 0xA0 0 255 3 6)
      { resetT false with radioAnswers := [false, true] })) = true := by decide +kernel

/-- A SET and a RESEND that each hand a packet over. -/
theorem witness_HandedPacketIsOfTheEntireState :
    ∃ t t' e e', exec (.set 8 8 0 0 0) (resetT true) = .next t ∧
      exec (.resend 0) { resetT true with fields := ⟨true, 0, false, true, false, 0, false, 0⟩ } = .next t' ∧
      t.trace = (resetT true).trace ++ [e] ∧ t'.trace = (resetT true).trace ++ [e'] ∧
      t.cfg = t'.cfg ∧ t.fields = t'.fields :=
  ⟨_, _, _, _, rfl, rfl, rfl, rfl, rfl, by decide +kernel⟩

theorem witness_ResendCompletes : radioAvail (resetT true) = true := by decide

/-- One word for each clause about a command word. -/
theorem witness_StatusCodesAndWhoReturnsThem :
    (0x010200070000#48).extractLsb' 40 8 = 0x01#8 ∧ (0x020000000000#48).extractLsb' 40 8 = 0x02#8 ∧
    (0x010000000000#48).extractLsb' 32 16 = 0x0100#16 ∧
    (0xFF0000000000#48).extractLsb' 40 8 ≠ 0x01#8 ∧ (0xFF0000000000#48).extractLsb' 40 8 ≠ 0x02#8 := by
  decide

theorem witness_ChecksumsAreAffineBijections : ecc1 0xFF = ecc1 0xFF ∧ ecc2 0x00 = ecc2 0x00 := by decide

/-- Different states with the same `cmd1`, and with the same `cmd2`. -/
theorem witness_ChecksumsDependOnTheirCommandWordOnly :
    cmd1 ⟨true, 6, false, true, false, 0, false, 0⟩ = cmd1 ⟨true, 6, false, true, true, 6, true, 6⟩ ∧
    cmd2 ⟨true, 6, false, true, false, 0, true, 6⟩ = cmd2 ⟨false, 0, true, false, false, 0, true, 6⟩ := by
  decide

theorem witness_PopcountParityIsThatOfTheFramedBits :
    serialPacketWord cfgT.serial0 ∈ packetWords cfgT resetFields ∧
    bytePacketWord (ecc2 (cmd2 resetFields)) ∈ packetWords cfgT resetFields := by decide

theorem witness_FramedStreamPlacesSymbolJOfWordK : 6 < 7 ∧ 21 < 22 := by decide

/-- The last position of the stream, the two guards, the mode and the last word. -/
theorem witness_FramedStreamInvariants : 153 < 154 ∧ (133 % 22 = 1 ∨ 133 % 22 = 12) ∧
    (144 % 22 = 1 ∨ 144 % 22 = 12) ∧ cfgT.parityMode = .popcount ∧ 6 < 7 := by decide

theorem witness_ParityModeTouchesOnlyParitySymbols :
    21 % 44 ≠ 22 ∧ 21 % 44 ≠ 23 ∧ 24 % 44 ≠ 22 ∧ 24 % 44 ≠ 23 := by decide

theorem witness_LineCodeRoundTrip : line .start = line .start ∧ [true, false].length % 2 = 0 := by decide

theorem witness_LineBitIndex : 1 < 2 ∧ [Symbol.start, .one][1]? = some .one ∧ 6 < 7 := by decide

theorem witness_PackPutsEachBitInItsPlace :
    (lineStream (framedStream cfgT resetFields)).length = 308 ∧ 307 < 308 := by decide +kernel

theorem witness_BufferNibblesOfEachWord :
    (packetWords cfgT resetFields)[0]? = some (serialPacketWord 0x1A5) ∧
    (packetWords cfgT resetFields)[6]? = some (bytePacketWord 0x07) := by decide

/-- The hypothesis is met by a state and itself, and by no two different ones: that is the claim. -/
theorem witness_BufferDeterminesStateAndSerials :
    encodePacket cfgT resetFields = encodePacket cfgT ⟨true, 0, false, false, false, 0, false, 0⟩ := rfl

theorem witness_TxbufHasThirtyNineByteAddresses :
    (38 ≤ 38) ∧ ¬(1 = 1 ∧ 39 ≤ 38) ∧ ¬(2 = 1 ∧ 0 ≤ 38) := by decide

theorem witness_HandOffOnTheAir : 1559 < 1560 := by decide

/-- A state with a packet and its answer in it that meets the invariant, and a step from it. -/
theorem witness_EveryStepKeepsTheInvariant :
    SafeState { resetT true with
      trace := [⟨encodePacket cfgT resetFields, 5⟩]
      responses := [⟨.ok, 0xFF, 0, ⟨0x1A5, 0x0C3, 0x1FE, resetFields⟩⟩]
      port := [.command 0x020000000000] } ∧
    ∃ t, step { resetT true with
      trace := [⟨encodePacket cfgT resetFields, 5⟩]
      responses := [⟨.ok, 0xFF, 0, ⟨0x1A5, 0x0C3, 0x1FE, resetFields⟩⟩]
      port := [.command 0x020000000000] } = .next t := by
  have hl : levelsLegal resetFields := by unfold levelsLegal; decide
  refine ⟨⟨hl, ?_, ?_, by decide⟩, _, rfl⟩
  · intro t ht
    obtain rfl := List.mem_singleton.mp ht
    exact ⟨rfl, resetFields, hl, rfl⟩
  · intro r hr
    obtain rfl := List.mem_singleton.mp hr
    exact ⟨rfl, rfl, rfl, hl, rfl, rfl⟩

theorem witness_OnlyResetChangesTheConfiguration :
    ∃ t, step (presenting (.reset cfgT) [] State.reset) = .next t ∧ t.cfg ≠ State.reset.cfg :=
  ⟨_, rfl, by decide⟩

/-- Two states that differ in their history. -/
theorem witness_CommandDependsOnStateWordAndRadioOnly :
    (resetT true).fields = { resetT true with trace := [⟨[], 5⟩] }.fields ∧
    (resetT true).cfg = { resetT true with trace := [⟨[], 5⟩] }.cfg ∧
    radioAvail (resetT true) = radioAvail { resetT true with trace := [⟨[], 5⟩] } := by decide

theorem witness_ResponseWordDeterminesTheResponse :
    rspWord ⟨.ok, 0xFF, 0, snapshotOf (resetT true)⟩ = rspWord ⟨.ok, 0xFF, 0, snapshotOf (resetT true)⟩ := rfl

end Sys2Proof.Tests.Slice0
end

section
/-! The reset event: the rules about the step that takes it, and the reset values. -/

namespace Sys2Proof.Machine

/-- The default state, field by field in the order of 10_state.md R11. -/
theorem resetFields_eq : resetFields = ⟨true, 0, false, false, false, 0, false, 0⟩ := rfl

@[simp] theorem State.resetWith_fields (cfg : Cfg) :
    (State.resetWith cfg).fields = resetFields := rfl

@[simp] theorem State.reset_fields : State.reset.fields = resetFields :=
  State.resetWith_fields defaultCfg

/-- A step at a presented reset event takes the event off the port and applies it. -/
theorem step_presenting_reset (cfg : Cfg) (rest : List PortEvent) (s : State) :
    step (presenting (.reset cfg) rest s) =
      .next (applyReset cfg { s with port := rest }) := rfl

/-- Settles O9: the step applies the reset (10_state.md R20), and both that and `State.reset` write
the default state. -/
theorem resetGivesTheResetValues : Obligations.ResetGivesTheResetValues := by
  refine ⟨fun s cfg rest => ?afterResetEvent, ?resetState⟩
  case afterResetEvent =>
    have hfields : (applyReset cfg { s with port := rest }).fields =
        ⟨true, 0, false, false, false, 0, false, 0⟩ :=
      (applyReset_fields cfg _).trans resetFields_eq
    exact ⟨_, step_presenting_reset cfg rest s, hfields, applyReset_cfg cfg _⟩
  case resetState =>
    exact State.reset_fields.trans resetFields_eq

end Sys2Proof.Machine
end

section
/-! The transmit buffer: the lengths of the streams it is packed from, and the zero bits it ends in. -/

namespace Sys2Proof.Machine

/-- Cutting into bytes goes through an append at a byte boundary. -/
theorem bytesOfBits_append (n : Nat) (bs bs' : Bits) (h : bs.length = 8 * n) :
    bytesOfBits (bs ++ bs') = bytesOfBits bs ++ bytesOfBits bs' := by
  induction n generalizing bs with
  | zero => simp [List.length_eq_zero_iff.mp (by simpa using h)]
  | succ n ih =>
    obtain ⟨b7, b6, b5, b4, b3, b2, b1, b0, rest, rfl⟩ := eight_bits bs (by omega)
    simp only [List.length_cons] at h
    simp [ih rest (by omega)]

@[simp] theorem lineStream_replicate_idle (n : Nat) :
    lineStream (List.replicate n .idle) = List.replicate (2 * n) false := by
  induction n with
  | zero => rfl
  | succ n ih => simp [List.replicate_succ, lineStream, line, ih, Nat.mul_succ]

@[simp] theorem framePacketWord_length (mode : ParityMode) (w : PacketWord) :
    (framePacketWord mode w).length = 22 :=
  frame_length _ _

@[simp] theorem framedStream_length (cfg : Cfg) (st : FieldRegs) :
    (framedStream cfg st).length = 154 := by
  simp [framedStream, packetWords]

/-- Every frame is 13 symbols and then the idle symbols (43_frame_builder.md R112). -/
theorem framePacketWord_ends_idle (mode : ParityMode) (w : PacketWord) :
    ∃ front, front.length = 13 ∧
      framePacketWord mode w = front ++ List.replicate idleSymbols .idle :=
  ⟨_, by simp, rfl⟩

/-- The framed stream ends as the frame of its last word does. -/
theorem framedStream_ends_idle (cfg : Cfg) (st : FieldRegs) :
    ∃ front, front.length = 145 ∧
      framedStream cfg st = front ++ List.replicate idleSymbols .idle := by
  obtain ⟨lastFront, hlength, hlast⟩ :=
    framePacketWord_ends_idle cfg.parityMode (bytePacketWord (ecc2 (cmd2 st)))
  refine ⟨(packetWords cfg st).dropLast.flatMap (framePacketWord cfg.parityMode) ++ lastFront, ?_, ?_⟩
  · simp [packetWords, hlength]
  · simp [framedStream, packetWords, hlast]

/-- What `Encode` packs: nine idle symbols' 18 zero bits and the four padding bits come last
(20_memory.md R33). -/
theorem paddedStream_ends_zero (cfg : Cfg) (st : FieldRegs) :
    ∃ front : Bits, front.length = 290 ∧
      lineStream (framedStream cfg st) ++ padBits = front ++ List.replicate 22 false := by
  obtain ⟨front, hlength, hstream⟩ := framedStream_ends_idle cfg st
  refine ⟨lineStream front, by simp [hlength], ?_⟩
  have hzeros : List.replicate (2 * idleSymbols) false ++ padBits = List.replicate 22 false := rfl
  rw [hstream, lineStream_append, lineStream_replicate_idle, List.append_assoc, hzeros]

/-- The padded stream fills 39 bytes, so the radio's reading of the buffer loses none of its bits. -/
theorem bitsOfBytes_encodePacket (cfg : Cfg) (st : FieldRegs) :
    bitsOfBytes (encodePacket cfg st) = lineStream (framedStream cfg st) ++ padBits :=
  bitsOfBytes_bytesOfBits 39 _ (by simp [padBits])

/-- The last byte is cut from the zero bits alone: byte 38 begins at bit 304, after bit 290. -/
theorem encodePacket_ends_zero (cfg : Cfg) (st : FieldRegs) :
    ∃ front : List Byte, front.length = 38 ∧ encodePacket cfg st = front ++ [0x00] := by
  obtain ⟨front, hlength, hstream⟩ := paddedStream_ends_zero cfg st
  have hfront : (front ++ List.replicate 14 false).length = 8 * 38 := by simp [hlength]
  refine ⟨bytesOfBits (front ++ List.replicate 14 false), bytesOfBits_length 38 _ hfront, ?_⟩
  calc encodePacket cfg st
      = bytesOfBits (front ++ List.replicate 22 false) := congrArg bytesOfBits hstream
    _ = bytesOfBits ((front ++ List.replicate 14 false) ++ List.replicate 8 false) := by
        rw [List.append_assoc, List.replicate_append_replicate]
    _ = bytesOfBits (front ++ List.replicate 14 false) ++ [0x00] :=
        bytesOfBits_append 38 _ _ hfront

/-- Settles O45: the padded stream ends in the idle symbols' 18 zero bits and the padding's four
(20_memory.md R33), and the buffer's last byte is cut from these. -/
theorem bufferEndsInTwentyTwoZeros : Obligations.BufferEndsInTwentyTwoZeros := by
  refine fun cfg st => ⟨?lastBits, ?lastByte⟩
  case lastBits =>
    obtain ⟨front, hlength, hstream⟩ := paddedStream_ends_zero cfg st
    rw [bitsOfBytes_encodePacket, hstream, List.drop_left' hlength]
  case lastByte =>
    obtain ⟨front, hlength, hbuffer⟩ := encodePacket_ends_zero cfg st
    simp [hbuffer, hlength]

end Sys2Proof.Machine
end

section
/-! Ignored bits of a command word (30_encoding.md R50): `relevantMask` byte by byte, the meaning of SET
as a function of what its mask selects, and the operand bytes the assembler leaves 0. -/

namespace Sys2Proof.Machine

/-! ### The relevant bits, byte by byte -/

/-- The bits of the flags byte that belong to boolean fields (numbers 0, 2, 3, 4, 6). -/
def boolFieldBits : Byte := 0x5D

/-- The relevant bits of a level operand: all where its field is selected, none otherwise. -/
def operandMask (selected : Bool) : Byte := if selected then BitVec.allOnes 8 else 0

theorem boolFieldBits_boolField (f : BoolField) :
    boolFieldBits.getLsbD (fieldNumber (boolField f)) = true := by
  cases f <;> rfl

/-- The opcode byte is relevant whatever the command. -/
theorem relevantMask_opcode (cw : CommandWord) :
    (relevantMask cw).extractLsb' 40 8 = BitVec.allOnes 8 := by
  rw [relevantMask]
  split
  · simp [BitVec.extractLsb'_or, BitVec.extractLsb'_and, apply_ite (BitVec.extractLsb' 40 8)]
  · rfl

/-- The bytes of `relevantMask` below the opcode of SET: mask, flags and the three level operands. -/
theorem relevantMask_of_opcodeSet (cw : CommandWord) (h : opcodeByte cw = opcodeSet) :
    (relevantMask cw).extractLsb' 32 8 = BitVec.allOnes 8 ∧
    (relevantMask cw).extractLsb' 24 8 = cw.extractLsb' 32 8 &&& boolFieldBits ∧
    (relevantMask cw).extractLsb' 16 8 = operandMask (selects (cw.extractLsb' 32 8) .light) ∧
    (relevantMask cw).extractLsb' 8 8 = operandMask (selects (cw.extractLsb' 32 8) .fan) ∧
    (relevantMask cw).extractLsb' 0 8 = operandMask (selects (cw.extractLsb' 32 8) .flame) := by
  rw [relevantMask, if_pos (show cw.extractLsb' 40 8 = 0x01#8 from h)]
  have hshift : (cw >>> 8).extractLsb' 24 8 = cw.extractLsb' 32 8 := by
    apply BitVec.eq_of_getLsbD_eq
    intro i hi
    simp [hi, show 8 + (24 + i) = 32 + i by omega]
  simp [BitVec.extractLsb'_or, BitVec.extractLsb'_and, apply_ite (BitVec.extractLsb' _ 8),
    operandMask, selects, fieldNumber, boolFieldBits, hshift]

/-- Agreement under a mask is agreement of each slice under the slice of the mask. -/
theorem slice_and_eq {n : Nat} {x y m : BitVec n} (start len : Nat) (h : x &&& m = y &&& m) :
    x.extractLsb' start len &&& m.extractLsb' start len =
      y.extractLsb' start len &&& m.extractLsb' start len := by
  rw [← BitVec.extractLsb'_and, h, BitVec.extractLsb'_and]

/-- What a word has outside a mask, slice by slice. -/
theorem slice_and_not {n : Nat} (x m : BitVec n) (start len : Nat) :
    (x &&& ~~~m).extractLsb' start len = x.extractLsb' start len &&& ~~~m.extractLsb' start len := by
  apply BitVec.eq_of_getLsbD_eq
  intro i hi
  by_cases hin : start + i < n
  · simp [hi, hin]
  · simp [hi, hin, BitVec.getLsbD_of_ge x (start + i) (by omega)]

/-- A command word whose six bytes are 0 is 0. -/
theorem commandWord_eq_zero {cw : CommandWord}
    (h40 : cw.extractLsb' 40 8 = 0) (h32 : cw.extractLsb' 32 8 = 0) (h24 : cw.extractLsb' 24 8 = 0)
    (h16 : cw.extractLsb' 16 8 = 0) (h8 : cw.extractLsb' 8 8 = 0) (h0 : cw.extractLsb' 0 8 = 0) :
    cw = 0 := by
  apply BitVec.eq_of_getLsbD_eq
  intro i hi
  have hbyte : cw.extractLsb' (8 * (i / 8)) 8 = 0 := by
    have hk : i / 8 < 6 := by omega
    interval_cases i / 8 <;> assumption
  have hbit := congrArg (BitVec.getLsbD · (i % 8)) hbyte
  simpa [Nat.mod_lt, Nat.div_add_mod] using hbit

/-! ### SET looks at what its mask selects -/

/-- Two flags bytes that agree on the selected boolean fields. -/
theorem flagOperand_eq_of_masked {mask flags flags' : Byte}
    (h : flags &&& (mask &&& boolFieldBits) = flags' &&& (mask &&& boolFieldBits)) (f : BoolField)
    (hsel : selects mask (boolField f) = true) :
    flagOperand flags (boolField f) = flagOperand flags' (boolField f) := by
  have hbit := congrArg (BitVec.getLsbD · (fieldNumber (boolField f))) h
  have hmask : mask.getLsbD (fieldNumber (boolField f)) = true := hsel
  simpa [flagOperand, hmask, boolFieldBits_boolField] using hbit

/-- Two operands that agree on the relevant bits are the same where the field is selected. -/
theorem operand_eq_of_masked {op op' : Byte} {selected : Bool}
    (h : op &&& operandMask selected = op' &&& operandMask selected) (hsel : selected = true) :
    op = op' := by
  subst hsel
  rwa [operandMask, if_pos rfl, BitVec.and_allOnes, BitVec.and_allOnes] at h

theorem boolUpdate_congr {mask flags flags' : Byte} (f : BoolField) (old : Bool)
    (h : selects mask (boolField f) = true →
      flagOperand flags (boolField f) = flagOperand flags' (boolField f)) :
    boolUpdate mask flags (boolField f) old = boolUpdate mask flags' (boolField f) old :=
  ite_congr rfl h fun _ => rfl

theorem levelUpdate_congr {mask op op' : Byte} {f : Field} (old : Level)
    (h : selects mask f = true → op = op') : levelUpdate mask op f old = levelUpdate mask op' f old :=
  ite_congr rfl (fun hsel => congrArg levelOperand (h hsel)) fun _ => rfl

/-- One test of validation, with the rest of the chain `e`. -/
theorem reject_congr {mask op op' : Byte} {f : Field} (e : Option CoreError)
    (h : selects mask f = true → op = op') :
    (if outOfRange mask op f then some (.validation f op) else e) =
      if outOfRange mask op' f then some (.validation f op') else e := by
  cases hsel : selects mask f with
  | true => rw [h hsel]
  | false => simp [outOfRange, hsel]

/-- A SET depends on the flags and operands of the selected fields only. -/
theorem execSet_congr {mask flags flags' lightOp lightOp' fanOp fanOp' flameOp flameOp' : Byte}
    (hflags : ∀ f, selects mask (boolField f) = true →
      flagOperand flags (boolField f) = flagOperand flags' (boolField f))
    (hlight : selects mask .light = true → lightOp = lightOp')
    (hfan : selects mask .fan = true → fanOp = fanOp')
    (hflame : selects mask .flame = true → flameOp = flameOp') (s : State) :
    execSet mask flags lightOp fanOp flameOp s = execSet mask flags' lightOp' fanOp' flameOp' s := by
  have hvalidation : firstInvalid mask lightOp fanOp flameOp =
      firstInvalid mask lightOp' fanOp' flameOp' := by
    rw [firstInvalid, reject_congr _ hlight, reject_congr _ hfan, reject_congr _ hflame, firstInvalid]
  have hupdate : applyUpdates mask flags lightOp fanOp flameOp s.fields =
      applyUpdates mask flags' lightOp' fanOp' flameOp' s.fields := by
    unfold applyUpdates
    congr 1
    exacts [boolUpdate_congr .pilot _ (hflags .pilot), levelUpdate_congr _ hlight,
      boolUpdate_congr .thermostat _ (hflags .thermostat), boolUpdate_congr .power _ (hflags .power),
      boolUpdate_congr .front _ (hflags .front), levelUpdate_congr _ hfan,
      boolUpdate_congr .aux _ (hflags .aux), levelUpdate_congr _ hflame]
  rw [execSet, hvalidation, hupdate, execSet]

/-- A SET that selects nothing is step 3 alone, on the unchanged state (40_state_model_commands.md
R74). -/
theorem execSet_mask_zero (flags lightOp fanOp flameOp : Byte) (s : State) :
    execSet 0 flags lightOp fanOp flameOp s = .next (handOff s) := by
  have hselects : ∀ f, selects 0#8 f = false := fun f => BitVec.getLsbD_zero
  have hvalid : firstInvalid 0 lightOp fanOp flameOp = none := by
    simp [firstInvalid, outOfRange, hselects]
  have hkept : applyUpdates 0 flags lightOp fanOp flameOp s.fields = s.fields := by
    simp [applyUpdates, boolUpdate, levelUpdate, hselects]
  rw [execSet, hvalid, hkept]

/-- The step at a word with the opcode of SET is that of SET on its five operand bytes, the empty mask
included. -/
theorem step_of_opcodeSet (cw : CommandWord) (rest : List PortEvent) (s : State)
    (h : opcodeByte cw = opcodeSet) :
    step (presenting (.command cw) rest s) =
      execSet (cw.extractLsb' 32 8) (cw.extractLsb' 24 8) (cw.extractLsb' 16 8) (cw.extractLsb' 8 8)
        (cw.extractLsb' 0 8) { s with port := rest } := by
  rw [step_presenting_command]
  rcases decode_cases cw with ⟨-, hmask, hd⟩ | ⟨-, -, hd⟩ | ⟨hget, -⟩ | ⟨hne, -, -⟩
  · rw [hd, hmask, execSet_mask_zero]
    rfl
  · rw [hd]
    rfl
  · exact absurd (h.symm.trans hget) (by decide)
  · exact absurd h hne

/-- The step at any other word looks at the opcode byte only. -/
theorem step_of_opcode_ne_set {cw cw' : CommandWord} (rest : List PortEvent) (s : State)
    (h : opcodeByte cw ≠ opcodeSet) (heq : opcodeByte cw = opcodeByte cw') :
    step (presenting (.command cw) rest s) = step (presenting (.command cw') rest s) := by
  rw [step_presenting_command, step_presenting_command, decode, decode, ← heq, if_neg h, if_neg h]
  by_cases hget : opcodeByte cw = opcodeGet
  · rw [if_pos hget, if_pos hget]
    rfl
  · rw [if_neg hget, if_neg hget]

/-! ### Words that agree on the relevant bits -/

theorem opcodeByte_eq_of_relevant_eq {cw cw' : CommandWord}
    (h : cw &&& relevantMask cw = cw' &&& relevantMask cw) : opcodeByte cw = opcodeByte cw' := by
  have hslice := slice_and_eq 40 8 h
  rwa [relevantMask_opcode, BitVec.and_allOnes, BitVec.and_allOnes] at hslice

/-- The first clause of R50 at the opcode of SET. -/
theorem step_eq_of_relevant_eq_set {cw cw' : CommandWord} (rest : List PortEvent) (s : State)
    (hset : opcodeByte cw = opcodeSet) (h : cw &&& relevantMask cw = cw' &&& relevantMask cw) :
    step (presenting (.command cw) rest s) = step (presenting (.command cw') rest s) := by
  obtain ⟨hmask, hflags, hlight, hfan, hflame⟩ := relevantMask_of_opcodeSet cw hset
  have hsame : cw.extractLsb' 32 8 = cw'.extractLsb' 32 8 := by
    have hslice := slice_and_eq 32 8 h
    rwa [hmask, BitVec.and_allOnes, BitVec.and_allOnes] at hslice
  rw [step_of_opcodeSet cw rest s hset,
    step_of_opcodeSet cw' rest s ((opcodeByte_eq_of_relevant_eq h).symm.trans hset), ← hsame]
  apply execSet_congr
  case hflags => exact flagOperand_eq_of_masked (hflags ▸ slice_and_eq 24 8 h)
  case hlight => exact operand_eq_of_masked (hlight ▸ slice_and_eq 16 8 h)
  case hfan => exact operand_eq_of_masked (hfan ▸ slice_and_eq 8 8 h)
  case hflame => exact operand_eq_of_masked (hflame ▸ slice_and_eq 0 8 h)

theorem step_eq_of_relevant_eq {cw cw' : CommandWord} (rest : List PortEvent) (s : State)
    (h : cw &&& relevantMask cw = cw' &&& relevantMask cw) :
    step (presenting (.command cw) rest s) = step (presenting (.command cw') rest s) := by
  by_cases hset : opcodeByte cw = opcodeSet
  · exact step_eq_of_relevant_eq_set rest s hset h
  · exact step_of_opcode_ne_set rest s hset (opcodeByte_eq_of_relevant_eq h)

/-! ### The assembler leaves ignored bits 0 -/

/-- Operand bytes of a SET with 0 in every ignored position. -/
structure SetBytes.IgnoredZero (b : SetBytes) : Prop where
  flags : ∀ n, b.flags.getLsbD n = true → b.mask.getLsbD n = true ∧ boolFieldBits.getLsbD n = true
  light : selects b.mask .light = false → b.lightOp = 0
  fan : selects b.mask .fan = false → b.fanOp = 0
  flame : selects b.mask .flame = false → b.flameOp = 0

theorem emptySet_ignoredZero : emptySet.IgnoredZero :=
  ⟨fun _ hn => absurd (BitVec.getLsbD_zero.symm.trans hn) Bool.false_ne_true,
    fun _ => rfl, fun _ => rfl, fun _ => rfl⟩

theorem fieldBit_getLsbD (f : Field) (n : Nat) :
    (fieldBit f).getLsbD n = true ↔ n = fieldNumber f := by
  have hlt : fieldNumber f < 8 := by cases f <;> decide
  simp [fieldBit, BitVec.getLsbD_twoPow, hlt, eq_comm]

/-- Selecting a field selects it. -/
theorem selects_or_fieldBit (mask : Byte) (f : Field) : selects (mask ||| fieldBit f) f = true := by
  simp [selects, (fieldBit_getLsbD f _).mpr rfl]

/-- Selecting a field keeps the selected ones. -/
theorem unselected_of_or {mask bits : Byte} {f : Field} (h : selects (mask ||| bits) f = false) :
    selects mask f = false := by
  rw [selects, BitVec.getLsbD_or, Bool.or_eq_false_iff] at h
  exact h.1

/-- With more fields selected, fewer bits are ignored. -/
theorem SetBytes.IgnoredZero.select {b : SetBytes} (h : b.IgnoredZero) (bits : Byte) :
    SetBytes.IgnoredZero { b with mask := b.mask ||| bits } where
  flags n hn := by
    obtain ⟨hmask, hbool⟩ := h.flags n hn
    exact ⟨by simp [hmask], hbool⟩
  light hsel := h.light (unselected_of_or hsel)
  fan hsel := h.fan (unselected_of_or hsel)
  flame hsel := h.flame (unselected_of_or hsel)

/-- An assignment writes an operand of the field it selects and no other. -/
theorem assembleAssign_ignoredZero {b : SetBytes} (h : b.IgnoredZero) (a : Assign) :
    (assembleAssign b a).IgnoredZero := by
  have written : ∀ {mask op : Byte} {f : Field}, selects (mask ||| fieldBit f) f = false → op = 0 :=
    fun hsel => absurd (hsel.symm.trans (selects_or_fieldBit _ _)) Bool.false_ne_true
  obtain ⟨hflags, hlight, hfan, hflame⟩ := h.select (fieldBit (assignField a))
  cases a with
  | level f value =>
    cases f with
    | light => exact ⟨hflags, written, hfan, hflame⟩
    | fan => exact ⟨hflags, hlight, written, hflame⟩
    | flame => exact ⟨hflags, hlight, hfan, written⟩
  | flag f value =>
    cases value with
    | false => exact ⟨hflags, hlight, hfan, hflame⟩
    | true =>
      refine ⟨fun n hn => ?_, hlight, hfan, hflame⟩
      rcases Bool.or_eq_true_iff.mp (BitVec.getLsbD_or.symm.trans hn) with hold | hnew
      · exact hflags n hold
      · obtain rfl := (fieldBit_getLsbD (boolField f) n).mp hnew
        exact ⟨selects_or_fieldBit b.mask (boolField f), boolFieldBits_boolField f⟩

theorem assembleSet_ignoredZero (assigns : List Assign) : (assembleSet assigns).IgnoredZero :=
  List.foldlRecOn assigns assembleAssign emptySet_ignoredZero fun _ h a _ =>
    assembleAssign_ignoredZero h a

/-- The bytes of a concatenation of six. -/
theorem sixBytes_slices (b5 b4 b3 b2 b1 b0 : Byte) :
    (b5 ++ b4 ++ b3 ++ b2 ++ b1 ++ b0).extractLsb' 40 8 = b5 ∧
    (b5 ++ b4 ++ b3 ++ b2 ++ b1 ++ b0).extractLsb' 32 8 = b4 ∧
    (b5 ++ b4 ++ b3 ++ b2 ++ b1 ++ b0).extractLsb' 24 8 = b3 ∧
    (b5 ++ b4 ++ b3 ++ b2 ++ b1 ++ b0).extractLsb' 16 8 = b2 ∧
    (b5 ++ b4 ++ b3 ++ b2 ++ b1 ++ b0).extractLsb' 8 8 = b1 ∧
    (b5 ++ b4 ++ b3 ++ b2 ++ b1 ++ b0).extractLsb' 0 8 = b0 := by
  simp (disch := omega) only [slice_append_high, slice_append_low]
  exact ⟨slice_whole _, slice_whole _, slice_whole _, slice_whole _, slice_whole _, slice_whole _⟩

theorem setWord_slices (b : SetBytes) :
    opcodeByte (setWord b) = opcodeSet ∧ (setWord b).extractLsb' 32 8 = b.mask ∧
    (setWord b).extractLsb' 24 8 = b.flags ∧ (setWord b).extractLsb' 16 8 = b.lightOp ∧
    (setWord b).extractLsb' 8 8 = b.fanOp ∧ (setWord b).extractLsb' 0 8 = b.flameOp :=
  sixBytes_slices _ _ _ _ _ _

theorem operand_and_not_operandMask {op : Byte} {selected : Bool} (h : selected = false → op = 0) :
    op &&& ~~~operandMask selected = 0 := by
  cases selected with
  | false =>
    rw [h rfl]
    exact BitVec.zero_and
  | true => simp [operandMask]

theorem flags_and_not_boolFieldBits {mask flags : Byte}
    (h : ∀ n, flags.getLsbD n = true → mask.getLsbD n = true ∧ boolFieldBits.getLsbD n = true) :
    flags &&& ~~~(mask &&& boolFieldBits) = 0 := by
  apply BitVec.eq_of_getLsbD_eq
  intro n hn
  cases hbit : flags.getLsbD n with
  | false => simp [hbit]
  | true =>
    obtain ⟨hmask, hbool⟩ := h n hbit
    simp [hmask, hbool]

/-- The second clause of R50 for the word of a SET, the relevant bits read off the word itself. -/
theorem setWord_ignored_eq_zero {b : SetBytes} (h : b.IgnoredZero) :
    setWord b &&& ~~~relevantMask (setWord b) = 0 := by
  obtain ⟨hopcode, hmask, hflags, hlight, hfan, hflame⟩ := setWord_slices b
  obtain ⟨relMask, relFlags, relLight, relFan, relFlame⟩ := relevantMask_of_opcodeSet (setWord b) hopcode
  rw [hmask] at relFlags relLight relFan relFlame
  apply commandWord_eq_zero
  case h40 =>
    rw [slice_and_not, relevantMask_opcode, BitVec.not_allOnes]
    exact BitVec.and_zero
  case h32 =>
    rw [slice_and_not, relMask, BitVec.not_allOnes]
    exact BitVec.and_zero
  case h24 => rw [slice_and_not, hflags, relFlags, flags_and_not_boolFieldBits h.flags]
  case h16 => rw [slice_and_not, hlight, relLight, operand_and_not_operandMask h.light]
  case h8 => rw [slice_and_not, hfan, relFan, operand_and_not_operandMask h.fan]
  case h0 => rw [slice_and_not, hflame, relFlame, operand_and_not_operandMask h.flame]

theorem assemble_ignored_eq_zero {a : Asm} {cw : CommandWord} (h : assemble a = some cw) :
    cw &&& ~~~relevantMask cw = 0 := by
  cases a with
  | set assigns =>
    obtain ⟨-, hword⟩ := Option.ite_none_right_eq_some.mp h
    obtain rfl := Option.some.inj hword
    exact setWord_ignored_eq_zero (assembleSet_ignoredZero assigns)
  | get =>
    obtain rfl := Option.some.inj h
    decide
  | resend =>
    obtain rfl := Option.some.inj h
    decide

/-- Settles O8: a step reads the opcode byte alone or is a SET on its operand bytes, and SET looks at
what its mask selects; the assembler's operand bytes keep `SetBytes.IgnoredZero`. -/
theorem ignoredBitsHaveNoEffect : Obligations.IgnoredBitsHaveNoEffect :=
  ⟨fun _ _ rest s => step_eq_of_relevant_eq rest s, fun _ _ => assemble_ignored_eq_zero⟩

end Sys2Proof.Machine
end

section
/-! The commands of 40_state_model_commands.md: what each does in the terms of the statements, and the
one split the statements about all commands rest on (answer only, or update and hand over). -/

namespace Sys2Proof.Machine

/-! ### The shared operations in the terms of the statements -/

theorem raiseError_eq (e : CoreError) (s : State) :
    raiseError e s = answered s (errorStatus e) (errorField e) (errorValue e) := rfl

/-- Step 3 of SET (40_state_model_commands.md R71), written out. -/
theorem handOff_eq (s : State) :
    handOff s =
      if radioAvail s then answered (transmitted (radioSampled s)) .ok 0xFF 0x00
      else answered (radioSampled s) .transmitUnavailable 0xFF 0x00 := rfl

/-- The snapshot that the hand-off answers with is that of the state after it. -/
@[simp] theorem snapshotOf_handOff (s : State) : snapshotOf (handOff s) = snapshotOf s :=
  snapshotOf_congr _ _ (handOff_fields s) (handOff_cfg s)

/-- The packet of the hand-off is that of the state after it. -/
theorem handOff_trace_cases (s : State) :
    (handOff s).trace = s.trace ∨
      (handOff s).trace = s.trace ++ [⟨encodePacket (handOff s).cfg (handOff s).fields, 5⟩] := by
  cases h : radioAvail s
  · exact .inl (by simp [h])
  · exact .inr (by simp [h])

/-- What the hand-off adds to the history is settled by the registers, the configuration and the radio's
answer: the same response and the same events, whatever the rest of the state. -/
theorem handOff_adds (st : FieldRegs) (cfg : Cfg) (avail : Bool) : ∃ r events,
    (∀ e ∈ events, e = ⟨encodePacket cfg st, 5⟩) ∧
    ∀ s, s.fields = st → s.cfg = cfg → radioAvail s = avail →
      (handOff s).responses = s.responses ++ [r] ∧ (handOff s).trace = s.trace ++ events := by
  cases avail
  case false =>
    refine ⟨⟨.transmitUnavailable, 0xFF, 0x00, ⟨cfg.serial0, cfg.serial1, cfg.serial2, st⟩⟩, [],
      by simp, ?_⟩
    rintro s rfl rfl h
    simp [h, snapshotOf]
  case true =>
    refine ⟨⟨.ok, 0xFF, 0x00, ⟨cfg.serial0, cfg.serial1, cfg.serial2, st⟩⟩,
      [⟨encodePacket cfg st, 5⟩], by simp, ?_⟩
    rintro s rfl rfl h
    simp [h, snapshotOf]

/-! ### The commands -/

theorem exec_set (mask flags lightOp fanOp flameOp : Byte) (s : State) :
    exec (.set mask flags lightOp fanOp flameOp) s = execSet mask flags lightOp fanOp flameOp s := rfl

theorem exec_get (ignored : BitVec 40) (s : State) :
    exec (.get ignored) s = .next (respond .ok 0xFF 0x00 s) := rfl

theorem exec_resend (ignored : BitVec 32) (s : State) :
    exec (.resend ignored) s = .next (handOff s) := rfl

theorem setValid_iff (mask lightOp fanOp flameOp : Byte) :
    setValid mask lightOp fanOp flameOp = true ↔
      rejects mask lightOp 1 = false ∧ rejects mask fanOp 5 = false ∧
        rejects mask flameOp 7 = false := by
  simp [setValid, and_assoc]

theorem exec_set_of_firstInvalid {mask lightOp fanOp flameOp : Byte} {e : CoreError}
    (h : firstInvalid mask lightOp fanOp flameOp = some e) (flags : Byte) (s : State) :
    exec (.set mask flags lightOp fanOp flameOp) s =
      .next (answered s (errorStatus e) (errorField e) (errorValue e)) := by
  simp only [exec_set, execSet, h, raiseError_eq]

theorem exec_set_of_setValid {mask lightOp fanOp flameOp : Byte}
    (h : setValid mask lightOp fanOp flameOp = true) (flags : Byte) (s : State) :
    exec (.set mask flags lightOp fanOp flameOp) s =
      .next (handOff { s with fields := fieldsAfterSet mask flags lightOp fanOp flameOp s.fields }) := by
  rw [exec_set, execSet, (setValid_iff_firstInvalid ..).mp h, applyUpdates_eq_fieldsAfterSet]

/-- A rejected SET only answers. -/
theorem exec_set_of_not_setValid {mask lightOp fanOp flameOp : Byte}
    (h : setValid mask lightOp fanOp flameOp = false) :
    ∃ status errField errValue, ∀ flags s,
      exec (.set mask flags lightOp fanOp flameOp) s = .next (respond status errField errValue s) := by
  cases hfirst : firstInvalid mask lightOp fanOp flameOp with
  | none =>
    have hvalid := (setValid_iff_firstInvalid ..).mpr hfirst
    exact absurd (h.symm.trans hvalid) Bool.false_ne_true
  | some e => exact ⟨_, _, _, exec_set_of_firstInvalid hfirst⟩

/-- What a command can do: the same answer in every state, everything else kept; or the same update
in every state and then the hand-off, where the update is that of a valid SET or none at all. -/
theorem exec_respond_or_handOff (i : Instr) :
    (∃ status errField errValue, ∀ s, exec i s = .next (respond status errField errValue s)) ∨
    ∃ update : FieldRegs → FieldRegs,
      (∀ s, exec i s = .next (handOff { s with fields := update s.fields })) ∧
      (update = id ∨ ∃ mask flags lightOp fanOp flameOp, i = .set mask flags lightOp fanOp flameOp ∧
        setValid mask lightOp fanOp flameOp = true) := by
  cases i with
  | set mask flags lightOp fanOp flameOp =>
    cases hvalid : setValid mask lightOp fanOp flameOp
    · obtain ⟨status, errField, errValue, h⟩ := exec_set_of_not_setValid hvalid
      exact .inl ⟨status, errField, errValue, h flags⟩
    · exact .inr ⟨_, exec_set_of_setValid hvalid flags, .inr ⟨_, _, _, _, _, rfl, hvalid⟩⟩
  | get ignored => exact .inl ⟨_, _, _, exec_get ignored⟩
  | resend ignored => exact .inr ⟨id, exec_resend ignored, .inl rfl⟩

/-- The output trace is kept, or grows by the packet of the whole state after the command
(40_state_model_commands.md R73). -/
theorem exec_trace_cases {i : Instr} {s t : State} (h : exec i s = .next t) :
    t.trace = s.trace ∨ t.trace = s.trace ++ [⟨encodePacket t.cfg t.fields, 5⟩] := by
  rcases exec_respond_or_handOff i with ⟨_, _, _, hexec⟩ | ⟨_, hexec, -⟩
  · obtain rfl := Host.Outcome.next.inj ((hexec s).symm.trans h)
    exact .inl (respond_trace ..)
  · obtain rfl := Host.Outcome.next.inj ((hexec s).symm.trans h)
    exact handOff_trace_cases _

theorem exec_event_eq {i : Instr} {s t : State} {e : Transmit} (h : exec i s = .next t)
    (htrace : t.trace = s.trace ++ [e]) : e = ⟨encodePacket t.cfg t.fields, 5⟩ := by
  rcases exec_trace_cases h with hkept | hgrown
  · simp [hkept] at htrace
  · simpa using htrace.symm.trans hgrown

/-- A command after which a register differs is a valid SET (10_state.md R22). -/
theorem setValid_of_exec_writes {i : Instr} {s t : State} (h : exec i s = .next t)
    (hwrites : t.fields ≠ s.fields) :
    ∃ mask flags lightOp fanOp flameOp, i = .set mask flags lightOp fanOp flameOp ∧
      setValid mask lightOp fanOp flameOp = true := by
  rcases exec_respond_or_handOff i with ⟨_, _, _, hexec⟩ | ⟨update, hexec, rfl | hset⟩
  · obtain rfl := Host.Outcome.next.inj ((hexec s).symm.trans h)
    exact absurd (respond_fields ..) hwrites
  · obtain rfl := Host.Outcome.next.inj ((hexec s).symm.trans h)
    exact absurd (handOff_fields _) hwrites
  · exact hset

/-- A SET writes all its fields or none (40_state_model_commands.md R72). -/
theorem exec_set_fields {mask flags lightOp fanOp flameOp : Byte} {s t : State}
    (h : exec (.set mask flags lightOp fanOp flameOp) s = .next t) :
    t.fields = if setValid mask lightOp fanOp flameOp
      then fieldsAfterSet mask flags lightOp fanOp flameOp s.fields else s.fields := by
  cases hvalid : setValid mask lightOp fanOp flameOp
  · obtain ⟨_, _, _, hexec⟩ := exec_set_of_not_setValid hvalid
    obtain rfl := Host.Outcome.next.inj ((hexec flags s).symm.trans h)
    exact respond_fields ..
  · obtain rfl := Host.Outcome.next.inj ((exec_set_of_setValid hvalid flags s).symm.trans h)
    exact handOff_fields _

/-- What the step at a command word can do, in the terms of `exec_respond_or_handOff`: a word that
spells no command is answered too. -/
theorem step_respond_or_handOff (cw : CommandWord) :
    (∃ status errField errValue, ∀ rest s, step (presenting (.command cw) rest s) =
      .next (respond status errField errValue { s with port := rest })) ∨
    ∃ update : FieldRegs → FieldRegs, ∀ rest s, step (presenting (.command cw) rest s) =
      .next (handOff { s with port := rest, fields := update s.fields }) := by
  simp only [step_presenting_command]
  cases decode cw with
  | error e =>
    cases e with
    | illegalOpcode opcode => exact .inl ⟨_, _, _, fun _ _ => rfl⟩
  | ok i =>
    rcases exec_respond_or_handOff i with ⟨_, _, _, hexec⟩ | ⟨update, hexec, -⟩
    · exact .inl ⟨_, _, _, fun _ _ => hexec _⟩
    · exact .inr ⟨update, fun _ _ => hexec _⟩

/-! ### The obligations -/

/-- Settles O12: validation ends in one of four ways; three answer, the fourth is the update and the
hand-off. -/
theorem setFollowsItsPseudocode : Obligations.SetFollowsItsPseudocode := by
  intro mask flags lightOp fanOp flameOp s
  rcases firstInvalid_cases mask lightOp fanOp flameOp with
    ⟨hlight, h⟩ | ⟨hlight, hfan, h⟩ | ⟨hlight, hfan, hflame, h⟩ | ⟨hvalid, -⟩
  · simp [exec_set_of_firstInvalid h, hlight]
  · simp [exec_set_of_firstInvalid h, hlight, hfan]
  · simp [exec_set_of_firstInvalid h, hlight, hfan, hflame]
  · obtain ⟨hlight, hfan, hflame⟩ := (setValid_iff ..).mp hvalid
    simp [exec_set_of_setValid hvalid, handOff_eq, hlight, hfan, hflame]

/-- Settles O14: the fields are those of `exec_set_fields`, shown by the answer and the packet; and of
the four things a step can do, only a reset and a valid SET write a register. -/
theorem setIsAtomicAndTheOnlyFieldWriter : Obligations.SetIsAtomicAndTheOnlyFieldWriter := by
  refine ⟨fun mask flags lightOp fanOp flameOp s => ?atomic, fun s t hstep hwrites => ?onlyWriter⟩
  case atomic =>
    obtain ⟨t, r, hexec, hresponses, hsnapshot, -, -⟩ :=
      exec_answers (.set mask flags lightOp fanOp flameOp) s
    exact ⟨t, r, hexec, exec_set_fields hexec, hresponses, congrArg Snapshot.fields hsnapshot,
      exec_trace_cases hexec⟩
  case onlyWriter =>
    rcases step_cases s t hstep with ⟨-, rfl⟩ | ⟨cfg, rest, hport, -⟩ |
      ⟨cw, rest, i, hport, hdecode, hexec⟩ | ⟨cw, rest, ⟨opcode⟩, -, -, rfl⟩
    · exact absurd rfl hwrites
    · exact .inl ⟨cfg, rest, hport⟩
    · obtain ⟨mask, flags, lightOp, fanOp, flameOp, rfl, hvalid⟩ :=
        setValid_of_exec_writes hexec hwrites
      exact .inr ⟨cw, rest, mask, flags, lightOp, fanOp, flameOp, hport, hdecode, hvalid⟩
    · exact absurd (takeIllegal_fields opcode _) hwrites

/-- Settles O16: a valid SET is its update and the hand-off, which keeps the registers whatever the
radio answers; the RESEND is the hand-off of the kept state. -/
theorem updateStandsWhenTheRadioIsUnavailable :
    Obligations.UpdateStandsWhenTheRadioIsUnavailable := by
  refine ⟨rfl, fun mask flags lightOp fanOp flameOp ignored s hvalid hradio => ?_⟩
  refine ⟨_, exec_set_of_setValid hvalid flags s, by simp, by simp [hradio], by simp, by simp,
    by simp [hradio], fun havail => ?resend⟩
  case resend => exact ⟨_, exec_resend ignored _, handOff_fields _, by simp [havail, hradio]⟩

/-- Settles O18: the one event a command can add is the packet of the state after it. -/
theorem handedPacketIsOfTheEntireState : Obligations.HandedPacketIsOfTheEntireState := by
  intro i i' s s' t t' e e' hexec hexec' htrace htrace'
  have he := exec_event_eq hexec htrace
  have he' := exec_event_eq hexec' htrace'
  refine ⟨rfl, he, fun hcfg hfields => ?_⟩
  rw [he, he', hcfg, hfields]

/-- Settles O19: a SET with an empty mask and a RESEND are both the hand-off of the state as it is. -/
theorem emptySetHandsTheUnchangedStateOver : Obligations.EmptySetHandsTheUnchangedStateOver := by
  intro flags lightOp fanOp flameOp ignored s
  have hempty : exec (.set 0 flags lightOp fanOp flameOp) s = .next (handOff s) :=
    (exec_set ..).trans (execSet_mask_zero ..)
  exact ⟨by rw [hempty, handOff_eq], (exec_resend ignored s).trans hempty.symm⟩

/-- Settles O57: the word alone chooses between an answer and an update with the hand-off, and either
reads the registers, the configuration and the radio's answer only. -/
theorem commandDependsOnStateWordAndRadioOnly :
    Obligations.CommandDependsOnStateWordAndRadioOnly := by
  intro s s' cw rest rest' hfields hcfg hradio
  rcases step_respond_or_handOff cw with ⟨status, errField, errValue, hstep⟩ | ⟨update, hstep⟩
  case inl =>
    have hsnapshot : snapshotOf s = snapshotOf s' := snapshotOf_congr s s' hfields hcfg
    exact ⟨_, _, ⟨status, errField, errValue, snapshotOf s⟩, [], hstep rest s, hstep rest' s',
      hfields, hcfg, rfl, by rw [hsnapshot]; rfl, by simp, by simp, by simp⟩
  case inr =>
    obtain ⟨r, events, hevents, hadds⟩ := handOff_adds (update s.fields) s.cfg (radioAvail s)
    obtain ⟨hresponses, htrace⟩ :=
      hadds { s with port := rest, fields := update s.fields } rfl rfl (radioAvail_congr _ _ rfl rfl)
    obtain ⟨hresponses', htrace'⟩ :=
      hadds { s' with port := rest', fields := update s'.fields } (by rw [hfields]) hcfg.symm
        ((radioAvail_congr _ _ rfl rfl).trans hradio.symm)
    exact ⟨_, _, r, events, hstep rest s, hstep rest' s', by simp [hfields], by simp [hcfg],
      hresponses, hresponses', htrace, htrace', by simpa using hevents⟩

/-- Settles O21 (40_state_model_commands.md R76). -/
theorem getReadsTheStateAndChangesNothing : Obligations.GetReadsTheStateAndChangesNothing :=
  fun ignored s => exec_get ignored s

end Sys2Proof.Machine
end

section
/-! The Word Encoder (41_word_encoder.md): streams of words put side by side, the scratch and framed
words of a byte, and the statements about the command words and the packet. -/

namespace Sys2Proof.Machine

/-- In stream order the high part of a concatenation comes first. -/
theorem streamBits_append {m n : Nat} (x : BitVec m) (y : BitVec n) :
    streamBits (x ++ y) = streamBits x ++ streamBits y := by
  refine List.ext_getElem (by simp) fun p _ _ => ?_
  by_cases hhigh : p < m
  case pos => simp [streamBits, BitVec.getMsbD_append, hhigh]
  case neg => simp [streamBits, BitVec.getMsbD_append, List.getElem_append, hhigh]

/-! ### The scratch word and the framed word -/

/-- The scratch word in stream order (41_word_encoder.md R92). -/
theorem streamBits_scratch12 (c : Byte) :
    streamBits (scratch12 c) = streamBits c ++ [false, false, false, false] := by
  rw [scratch12, streamBits_append]
  rfl

/-- The framed word is `{c, 0}` (41_word_encoder.md R95): of the 4 padding bits of the scratch word
the lowest 3 are cut off. -/
theorem framedWord_eq (c : Byte) : framedWord c = c ++ 0#1 := by
  refine BitVec.eq_of_getLsbD_eq fun i hi => ?_
  rw [framedWord, scratch12, BitVec.getLsbD_extractLsb', BitVec.getLsbD_append, BitVec.getLsbD_append]
  cases i with
  | zero => rfl
  | succ i =>
    have habovePadding : ¬ 3 + (i + 1) < 4 := by omega
    have hindex : 3 + (i + 1) - 4 = i := by omega
    simp [hi, habovePadding, hindex]

/-- The framed word as a number: `c << 1` (41_word_encoder.md R95). -/
theorem framedWord_toNat (c : Byte) : (framedWord c).toNat = c.toNat * 2 := by
  rw [framedWord_eq, BitVec.toNat_append]
  simp [Nat.shiftLeft_eq]

/-- The framed word in stream order: `d0` to `d7` are the byte, `d8` is 0 (41_word_encoder.md R95). -/
theorem streamBits_framedWord (c : Byte) : streamBits (framedWord c) = streamBits c ++ [false] := by
  rw [framedWord_eq, streamBits_append]
  rfl

/-! ### The words of a packet -/

@[simp] theorem serialPacketWord_data (v : Word9) : (serialPacketWord v).data = v := rfl

@[simp] theorem serialPacketWord_parityInput (v : Word9) :
    (serialPacketWord v).parityInput = streamBits v := rfl

@[simp] theorem bytePacketWord_data (c : Byte) : (bytePacketWord c).data = c ++ 0#1 :=
  framedWord_eq c

@[simp] theorem bytePacketWord_parityInput (c : Byte) :
    (bytePacketWord c).parityInput = streamBits (scratch12 c) := rfl

/-! ### The obligations -/

/-- Settles O26: as a number a concatenation is its parts shifted into place, and the shifts of nested
concatenations add up. -/
theorem cmd1Layout : Obligations.Cmd1Layout := by
  intro st
  rw [cmd1, BitVec.toNat_append, BitVec.toNat_append, BitVec.toNat_append, BitVec.toNat_append]
  simp [Nat.shiftLeft_or_distrib, ← Nat.shiftLeft_add]

/-- Settles O27, as O26. -/
theorem cmd2Layout : Obligations.Cmd2Layout := by
  intro st
  rw [cmd2, BitVec.toNat_append, BitVec.toNat_append, BitVec.toNat_append]
  simp [Nat.shiftLeft_or_distrib, ← Nat.shiftLeft_add]

/-- Settles O29: both streams are the byte's 8 bits and zeros. -/
theorem framedWordIsTheByteAndAZero : Obligations.FramedWordIsTheByteAndAZero := by
  intro c
  refine ⟨framedWord_toNat c, streamBits_framedWord c, ?firstNineBits⟩
  case firstNineBits =>
    rw [streamBits_framedWord, streamBits_scratch12]
    simp [List.take_append]

/-- Settles O30: word by word, a serial word as it is (41_word_encoder.md R93) and a byte framed. -/
theorem packetIsSevenWordsInOrder : Obligations.PacketIsSevenWordsInOrder := by
  intro cfg st
  constructor
  case left => simp [packetWords]
  case right => simp [packetWords]

end Sys2Proof.Machine
end

section
/-! The Checksum Generator (42_checksum_generator.md): the nibble operations as arithmetic on natural
numbers, and the two formulas read off them. -/

namespace Sys2Proof.Machine

/-! ### Nibbles as numbers -/

@[simp] theorem highNibble_toNat (c : Byte) : (highNibble c).toNat = c.toNat / 16 := by
  have hlt : c.toNat / 16 < 16 := Nat.div_lt_of_lt_mul c.isLt
  simp [highNibble, Nat.shiftRight_eq_div_pow, Nat.mod_eq_of_lt hlt]

@[simp] theorem lowNibble_toNat (c : Byte) : (lowNibble c).toNat = c.toNat % 16 := by
  simp [lowNibble]

/-- The shift into a fifth bit loses nothing (42_checksum_generator.md R100). -/
@[simp] theorem shiftOut_toNat (v : BitVec 4) : (shiftOut v).toNat = v.toNat <<< 1 := by
  rw [shiftOut, BitVec.toNat_append]
  exact Nat.or_zero _

/-- Only the mask cuts off the bit shifted out of position 3. -/
@[simp] theorem highMix_toNat (hi lo : BitVec 4) :
    (highMix hi lo).toNat = (hi.toNat ^^^ (hi.toNat <<< 1) ^^^ (lo.toNat <<< 1)) &&& 0xF := by
  have hwiden : hi.toNat % 2 ^ 5 = hi.toNat := Nat.mod_eq_of_lt (by omega)
  have hmasked (n : Nat) : (n &&& 0xF) % 2 ^ 4 = n &&& 0xF :=
    Nat.mod_eq_of_lt (Nat.and_lt_two_pow n (by decide))
  simp only [highMix, BitVec.extractLsb'_toNat, Nat.shiftRight_zero, BitVec.toNat_and,
    BitVec.toNat_xor, BitVec.truncate_eq_setWidth, BitVec.toNat_setWidth, hwiden, shiftOut_toNat]
  exact hmasked _

/-- A byte put together from two nibbles. -/
theorem nibbles_toNat (high low : BitVec 4) :
    (high ++ low).toNat = high.toNat * 16 + low.toNat := by
  rw [BitVec.toNat_append, ← Nat.shiftLeft_add_eq_or_of_lt low.isLt, Nat.shiftLeft_eq]

/-! ### The obligations -/

/-- Settles O31: the seed has 4 bits, so it may be applied before the mask as the document does. -/
theorem ecc1Formula : Obligations.Ecc1Formula := by
  intro c hi lo
  have hseed (n : Nat) : 0xD ^^^ (n &&& 0xF) = (0xD ^^^ n) &&& 0xF := by
    simp [Nat.and_xor_distrib_right]
  rw [ecc1, nibbles_toNat]
  simp [ecc1Seed, hseed, hi, lo, Nat.xor_assoc]

/-- Settles O32: the seed is applied outside the mask, so the parts are the document's as they are. -/
theorem ecc2Formula : Obligations.Ecc2Formula := by
  intro c hi lo
  rw [ecc2, nibbles_toNat]
  simp [ecc2Seed, hi, lo]

end Sys2Proof.Machine
end

section
/-! The Frame Builder (43_frame_builder.md): the parity bit as a number, the frame symbol by symbol, and
the place of every word's frame in the framed stream. -/

namespace Sys2Proof.Machine

/-! ### The parity bit -/

@[simp] theorem parity_popcount (bl : Bits) : parity .popcount bl = popcountParity bl := rfl

@[simp] theorem parity_alt (bl : Bits) : parity .alt bl = Config.altParityFn bl := rfl

theorem popcountParity_toNat (bl : Bits) : (popcountParity bl).toNat = bl.count true % 2 := by
  rcases Nat.mod_two_eq_zero_or_one (bl.count true) with h | h
  · simp [popcountParity, h]
  · simp [popcountParity, h]

/-- A bit counts as many ones as it is worth. -/
theorem count_true_singleton (b : Bool) : [b].count true = b.toNat := by
  cases b <;> rfl

/-- The ones of a bit list followed by a parity bit. -/
theorem count_true_append_popcountParity (bl : Bits) :
    (bl ++ [popcountParity bl]).count true = bl.count true + bl.count true % 2 := by
  rw [List.count_append, count_true_singleton, popcountParity_toNat]

/-! ### The frame -/

@[simp] theorem sym_false : sym false = .zero := rfl

@[simp] theorem sym_true : sym true = .one := rfl

/-- The framed bits in stream order, `d0` first: bit 8 of the word comes first (00_scope.md
section 6.2). -/
theorem streamBits_word9 (d : Word9) :
    streamBits d = [d.getLsbD 8, d.getLsbD 7, d.getLsbD 6, d.getLsbD 5, d.getLsbD 4, d.getLsbD 3,
      d.getLsbD 2, d.getLsbD 1, d.getLsbD 0] := rfl

/-- The nine idle symbols (43_frame_builder.md R112). -/
theorem replicate_idleSymbols :
    List.replicate idleSymbols Symbol.idle =
      [.idle, .idle, .idle, .idle, .idle, .idle, .idle, .idle, .idle] := rfl

/-! ### The framed stream -/

/-- Blocks of one length `n`, one after the other: place `n k + j` holds what block `k` has at `j`. -/
theorem getElem?_flatMap_of_length_eq {α β : Type} {n : Nat} {block : α → List β}
    (hlength : ∀ a, (block a).length = n) (as : List α) (k : Nat) {j : Nat} (hj : j < n) :
    (as.flatMap block)[n * k + j]? = as[k]?.bind fun a => (block a)[j]? := by
  induction as generalizing k with
  | nil => simp
  | cons a as ih =>
    rw [List.flatMap_cons]
    cases k with
    | zero => simp [List.getElem?_append_left, hlength, hj]
    | succ k =>
      have hnext : n * (k + 1) + j = (block a).length + (n * k + j) := by
        rw [hlength, Nat.mul_succ]; omega
      rw [hnext, List.getElem?_append_right (Nat.le_add_right ..), Nat.add_sub_cancel_left, ih k,
        List.getElem?_cons_succ]

@[simp] theorem packetWords_length (cfg : Cfg) (st : FieldRegs) :
    (packetWords cfg st).length = 7 := rfl

/-- Symbol `j` of the frame of word `k` (43_frame_builder.md R114). -/
theorem framedStream_getElem? (cfg : Cfg) (st : FieldRegs) (k : Nat) {j : Nat} (hj : j < 22) :
    (framedStream cfg st)[22 * k + j]? =
      (packetWords cfg st)[k]?.bind fun w => (framePacketWord cfg.parityMode w)[j]? :=
  getElem?_flatMap_of_length_eq (framePacketWord_length cfg.parityMode) _ k hj

/-! ### The obligations -/

/-- Settles O38: all frames have 22 symbols, so word `k`'s begins after `22 k`. -/
theorem framedStreamPlacesSymbolJOfWordK : Obligations.FramedStreamPlacesSymbolJOfWordK := by
  refine fun cfg st => ⟨framedStream_length cfg st, fun k j hk hj => ?place⟩
  have hlt : k < (packetWords cfg st).length := by rwa [packetWords_length]
  have hword : (packetWords cfg st)[k]? = some (packetWords cfg st)[k] :=
    List.getElem?_eq_getElem hlt
  refine ⟨_, hword, ?_⟩
  rw [framedStream_getElem? cfg st k hj, hword]
  rfl

/-- Settles O35: a number and its remainder modulo 2 add up to an even number. -/
theorem parityOfEachMode : Obligations.ParityOfEachMode := by
  refine fun bl => ⟨popcountParity_toNat bl, ?evenOnes, parity_alt bl⟩
  case evenOnes =>
    rw [parity_popcount, count_true_append_popcountParity]
    omega

/-- Settles O37: the nine framed bits and the nine idle symbols written out between the constant
symbols of R112. -/
theorem frameIsTheTwentyTwoSymbols : Obligations.FrameIsTheTwentyTwoSymbols := by
  refine fun d p => ⟨?symbols, sym_false, sym_true⟩
  case symbols => simp [frame, streamBits_word9, replicate_idleSymbols]

end Sys2Proof.Machine
end

section
/-! The Line Encoder (44_line_encoder.md): the line code and its test-only decoder undo each other,
one symbol at a time and then along whole streams. -/

namespace Sys2Proof.Machine

/-! ### One symbol -/

/-- Every pair of bits is the line code of the symbol it decodes to (44_line_encoder.md R128: the
range of the code is all four pairs). -/
@[simp] theorem line_unline (a b : Bool) : line (unline a b) = [a, b] := by
  cases a <;> cases b <;> rfl

/-- The decoder takes one symbol's code off the front of a stream. -/
@[simp] theorem unlineStream_line_append (s : Symbol) (bs : Bits) :
    unlineStream (line s ++ bs) = s :: unlineStream bs := by
  cases s <;> rfl

/-- No two symbols share a code, since the decoder tells them apart. -/
theorem line_injective : Function.Injective line := by
  intro a b h
  have hdecoded : unlineStream (line a ++ []) = unlineStream (line b ++ []) := by rw [h]
  simpa only [unlineStream_line_append, List.cons.injEq, and_true] using hdecoded

/-! ### Streams -/

@[simp] theorem unlineStream_lineStream (ss : List Symbol) : unlineStream (lineStream ss) = ss := by
  induction ss with
  | nil => rfl
  | cons s ss ih => rw [lineStream, unlineStream_line_append, ih]

/-- Pairs are cut from the front, so the induction goes two bits at a time; a single bit left over
is what the even length excludes. -/
theorem lineStream_unlineStream (bs : Bits) (heven : bs.length % 2 = 0) :
    lineStream (unlineStream bs) = bs := by
  induction bs using List.twoStepInduction with
  | nil => rfl
  | singleton b => simp at heven
  | cons_cons a b rest ih =>
    have hrest : rest.length % 2 = 0 := by simp only [List.length_cons] at heven; omega
    calc lineStream (unlineStream (a :: b :: rest))
        = line (unline a b) ++ lineStream (unlineStream rest) := rfl
      _ = a :: b :: rest := by rw [line_unline, ih hrest, List.cons_append, List.singleton_append]

/-! ### The obligation -/

/-- Settles O41: the decoder undoes the code symbol by symbol, and the code the decoder pair by
pair. -/
theorem lineCodeRoundTrip : Obligations.LineCodeRoundTrip :=
  ⟨fun _ _ h => line_injective h, unlineStream_lineStream, lineStream_unlineStream⟩

end Sys2Proof.Machine
end

section
/-! Errors and statuses (60_exceptions.md): the step at each kind of opcode byte, the one split of the
commands into rejected SETs and the rest, and which answer a command word is given. -/

namespace Sys2Proof.Machine

/-! ### The step by opcode byte -/

/-- A word that spells no command is answered and nothing else (60_exceptions.md R148). -/
theorem step_of_reservedOpcode (cw : CommandWord) (rest : List PortEvent) (s : State)
    (hset : opcodeByte cw ≠ opcodeSet) (hget : opcodeByte cw ≠ opcodeGet) :
    step (presenting (.command cw) rest s) =
      .next (answered { s with port := rest } .illegalCommand 0xFF (opcodeByte cw)) := by
  rw [step_presenting_command, decode, if_neg hset, if_neg hget]
  rfl

theorem step_of_opcodeGet (cw : CommandWord) (rest : List PortEvent) (s : State)
    (hget : opcodeByte cw = opcodeGet) :
    step (presenting (.command cw) rest s) = .next (answered { s with port := rest } .ok 0xFF 0x00) := by
  have hset : opcodeByte cw ≠ opcodeSet := by rw [hget]; decide
  rw [step_presenting_command, decode, if_neg hset, if_pos hget]
  rfl

/-! ### Validation of a SET -/

/-- An error field and value that name a level field whose operand a SET rejects (60_exceptions.md
R146). -/
def NamesRejected (mask lightOp fanOp flameOp errField errValue : Byte) : Prop :=
  (errField = 1 ∧ errValue = lightOp ∧ rejects mask lightOp 1 = true) ∨
  (errField = 5 ∧ errValue = fanOp ∧ rejects mask fanOp 5 = true) ∨
  (errField = 7 ∧ errValue = flameOp ∧ rejects mask flameOp 7 = true)

/-- What validation finds in a SET that is not valid. -/
theorem firstInvalid_of_not_setValid {mask lightOp fanOp flameOp : Byte}
    (h : setValid mask lightOp fanOp flameOp = false) :
    ∃ e, firstInvalid mask lightOp fanOp flameOp = some e ∧ errorStatus e = .validationError ∧
      NamesRejected mask lightOp fanOp flameOp (errorField e) (errorValue e) := by
  rcases firstInvalid_cases mask lightOp fanOp flameOp with
    ⟨hlight, hfirst⟩ | ⟨-, hfan, hfirst⟩ | ⟨-, -, hflame, hfirst⟩ | ⟨hvalid, -⟩
  · exact ⟨_, hfirst, rfl, .inl ⟨rfl, rfl, hlight⟩⟩
  · exact ⟨_, hfirst, rfl, .inr (.inl ⟨rfl, rfl, hfan⟩)⟩
  · exact ⟨_, hfirst, rfl, .inr (.inr ⟨rfl, rfl, hflame⟩)⟩
  · exact absurd (h.symm.trans hvalid) Bool.false_ne_true

theorem setValid_mask_zero (lightOp fanOp flameOp : Byte) : setValid 0 lightOp fanOp flameOp = true := by
  simp [setValid, rejects]

/-- The test of one level operand on the bits of the command word: the mask is byte 4 of the word. -/
theorem rejects_maskByte (cw : CommandWord) (op : Byte) {n : Nat} (hn : n < 8) :
    rejects (cw.extractLsb' 32 8) op n = true ↔ cw.getLsbD (32 + n) = true ∧ 6 < op.toNat := by
  simp [rejects, hn]

/-! ### Rejected SETs and the other commands -/

/-- The radio's answer chooses the status of a hand-off and nothing else of its response. -/
theorem handOff_response (s : State) : (handOff s).responses = s.responses ++
    [⟨if radioAvail s then .ok else .transmitUnavailable, 0xFF, 0x00, snapshotOf s⟩] := by
  rw [handOff_responses]
  cases radioAvail s <;> rfl

/-- A valid SET is answered by its hand-off, whose radio is that of the state before. -/
theorem exec_set_valid_answers {mask lightOp fanOp flameOp : Byte}
    (h : setValid mask lightOp fanOp flameOp = true) (flags : Byte) (s : State) :
    ∃ t, exec (.set mask flags lightOp fanOp flameOp) s = .next t ∧ t.responses = s.responses ++
      [⟨if radioAvail s then .ok else .transmitUnavailable, 0xFF, 0x00, snapshotOf t⟩] :=
  ⟨_, exec_set_of_setValid h flags s, by rw [handOff_response, radioAvail_withFields, snapshotOf_handOff]⟩

/-- A SET whose validation fails: in every state it only answers, always with the same rejected field. -/
theorem exec_set_rejected {mask lightOp fanOp flameOp : Byte}
    (h : setValid mask lightOp fanOp flameOp = false) :
    ∃ errField errValue, NamesRejected mask lightOp fanOp flameOp errField errValue ∧
      ∀ flags s, exec (.set mask flags lightOp fanOp flameOp) s =
        .next (answered s .validationError errField errValue) := by
  obtain ⟨e, hfirst, hstatus, hnames⟩ := firstInvalid_of_not_setValid h
  exact ⟨_, _, hnames, fun flags s => hstatus ▸ exec_set_of_firstInvalid hfirst flags s⟩

/-- Every command that is not a SET with a rejected operand is answered OK or TRANSMIT_UNAVAILABLE. -/
theorem exec_not_rejected (i : Instr) (s : State)
    (h : ∀ mask flags lightOp fanOp flameOp, i = .set mask flags lightOp fanOp flameOp →
      setValid mask lightOp fanOp flameOp = true) :
    ∃ t r, exec i s = .next t ∧ t.responses = s.responses ++ [r] ∧
      (r.status = .ok ∨ r.status = .transmitUnavailable) := by
  cases i with
  | set mask flags lightOp fanOp flameOp =>
    obtain ⟨t, hexec, hresponses⟩ := exec_set_valid_answers (h _ _ _ _ _ rfl) flags s
    exact ⟨t, _, hexec, hresponses, ite_eq_or_eq ..⟩
  | get ignored => exact ⟨_, _, exec_get ignored s, respond_responses .., .inl rfl⟩
  | resend ignored => exact ⟨_, _, exec_resend ignored s, handOff_response _, ite_eq_or_eq ..⟩

/-! ### Status codes -/

theorem statusCode_lt (status : Status) : (statusCode status).toNat < 4 := by
  cases status <;> decide

theorem statusCode_injective : Function.Injective statusCode := by
  intro a b
  cases a <;> cases b <;> decide

/-- A word with the opcode byte of SET is never answered ILLEGAL_COMMAND, and with an empty mask never
VALIDATION_ERROR: the empty mask selects no operand to reject. -/
theorem step_status_of_opcodeSet (cw : CommandWord) (rest : List PortEvent) (s : State)
    (hset : opcodeByte cw = opcodeSet) : ∃ t r,
    step (presenting (.command cw) rest s) = .next t ∧ t.responses = s.responses ++ [r] ∧
      r.status ≠ .illegalCommand ∧
      (cw.extractLsb' 32 8 = (0 : Byte) → r.status ≠ .validationError) := by
  rw [step_of_opcodeSet cw rest s hset, ← exec_set]
  cases hvalid : setValid (cw.extractLsb' 32 8) (cw.extractLsb' 16 8) (cw.extractLsb' 8 8)
    (cw.extractLsb' 0 8) with
  | false =>
    obtain ⟨errField, errValue, -, hexec⟩ := exec_set_rejected hvalid
    refine ⟨_, _, hexec _ _, rfl, Status.noConfusion, fun hmask => ?_⟩
    rw [hmask, setValid_mask_zero] at hvalid
    exact absurd hvalid.symm Bool.false_ne_true
  | true =>
    obtain ⟨t, hexec, hresponses⟩ := exec_set_valid_answers hvalid _ { s with port := rest }
    refine ⟨t, _, hexec, hresponses, ?_⟩
    cases radioAvail { s with port := rest } <;> simp

/-- The mask byte of a word that begins with the opcode of SET and an empty mask (RESEND). -/
theorem maskByte_of_emptySet {cw : CommandWord} (h : cw.extractLsb' 32 16 = 0x0100#16) :
    cw.extractLsb' 32 8 = (0 : Byte) := by
  have hslice : (cw.extractLsb' 32 16).extractLsb' 0 8 = cw.extractLsb' 32 8 := by
    apply BitVec.eq_of_getLsbD_eq
    intro i hi
    simp [hi, show i < 16 by omega]
  rw [← hslice, h]
  rfl

/-! ### The obligations -/

/-- Settles O6 (60_exceptions.md R148): the step at a word that the decoder rejects. -/
theorem illegalWordIsAnsweredAndChangesNothing : Obligations.IllegalWordIsAnsweredAndChangesNothing :=
  ⟨rfl, fun s cw rest hset hget => step_of_reservedOpcode cw rest s hset hget⟩

/-- Settles O15: a rejected SET answers alike in every state, so also in the one it leaves; any other
command has another status. -/
theorem validationErrorNamesARejectedField : Obligations.ValidationErrorNamesARejectedField := by
  refine ⟨rfl, fun i s => ?_⟩
  by_cases hrejected : ∃ mask flags lightOp fanOp flameOp,
      i = .set mask flags lightOp fanOp flameOp ∧ setValid mask lightOp fanOp flameOp = false
  case pos =>
    obtain ⟨mask, flags, lightOp, fanOp, flameOp, rfl, hinvalid⟩ := hrejected
    obtain ⟨errField, errValue, hnames, hexec⟩ := exec_set_rejected hinvalid
    refine ⟨_, _, hexec flags s, rfl, iff_of_true rfl ⟨_, _, _, _, _, rfl, hinvalid⟩, ?_⟩
    rintro _ _ _ _ _ ⟨⟩ -
    exact ⟨hnames, rfl, hexec flags _⟩
  case neg =>
    obtain ⟨t, r, hexec, hresponses, hstatus⟩ := exec_not_rejected i s
      fun mask flags lightOp fanOp flameOp hi =>
        Bool.eq_true_of_not_eq_false fun hinvalid => hrejected ⟨_, _, _, _, _, hi, hinvalid⟩
    have hother : r.status ≠ .validationError := by rcases hstatus with h | h <;> simp [h]
    exact ⟨t, r, hexec, hresponses, iff_of_false hother hrejected,
      fun _ _ _ _ _ hi hinvalid => absurd ⟨_, _, _, _, _, hi, hinvalid⟩ hrejected⟩

/-- Settles O17: the chain of R151 branches first on the opcode byte, then on what validation finds, and
last on the radio's answer to the hand-off. -/
theorem errorsAreReportedByPriority : Obligations.ErrorsAreReportedByPriority := by
  intro s cw rest
  by_cases hget : cw.extractLsb' 40 8 = 0x02#8
  case pos => exact ⟨_, _, step_of_opcodeGet cw rest s hget, rfl, by rw [hget]; rfl⟩
  by_cases hset : cw.extractLsb' 40 8 = 0x01#8
  case neg => exact ⟨_, _, step_of_reservedOpcode cw rest s hset hget, rfl, (if_pos ⟨hset, hget⟩).symm⟩
  have hlightBit := rejects_maskByte cw (cw.extractLsb' 16 8) (n := 1) (by omega)
  have hfanBit := rejects_maskByte cw (cw.extractLsb' 8 8) (n := 5) (by omega)
  have hflameBit := rejects_maskByte cw (cw.extractLsb' 0 8) (n := 7) (by omega)
  rw [step_of_opcodeSet cw rest s hset, ← exec_set, if_neg (fun h => h.1 hset), if_neg hget]
  simp only [← hlightBit, ← hfanBit, ← hflameBit]
  rcases firstInvalid_cases (cw.extractLsb' 32 8) (cw.extractLsb' 16 8) (cw.extractLsb' 8 8)
    (cw.extractLsb' 0 8) with
    ⟨hlight, hfirst⟩ | ⟨hlight, hfan, hfirst⟩ | ⟨hlight, hfan, hflame, hfirst⟩ | ⟨hvalid, -⟩
  · exact ⟨_, _, exec_set_of_firstInvalid hfirst _ _, rfl, by simp [hlight]⟩
  · exact ⟨_, _, exec_set_of_firstInvalid hfirst _ _, rfl, by simp [hlight, hfan]⟩
  · exact ⟨_, _, exec_set_of_firstInvalid hfirst _ _, rfl, by simp [hlight, hfan, hflame]⟩
  · obtain ⟨hlight, hfan, hflame⟩ := (setValid_iff ..).mp hvalid
    obtain ⟨t, hexec, hresponses⟩ := exec_set_valid_answers hvalid _ { s with port := rest }
    refine ⟨t, _, hexec, hresponses, ?_⟩
    cases hradio : radioAvail s <;> simp [hlight, hfan, hflame, hradio]

/-- Settles O25: one case per kind of opcode byte; the codes tell the statuses apart. -/
theorem statusCodesAndWhoReturnsThem : Obligations.StatusCodesAndWhoReturnsThem := by
  refine ⟨rfl, rfl, rfl, rfl, fun s cw rest => ?_⟩
  by_cases hget : cw.extractLsb' 40 8 = 0x02#8
  case pos =>
    exact ⟨_, _, step_of_opcodeGet cw rest s hget, rfl, statusCode_lt _,
      fun _ => show statusCode .ok ≠ 0x03 by decide, fun _ => rfl,
      fun _ => show statusCode .ok ≠ 0x01 by decide, fun _ hne => absurd hget hne⟩
  by_cases hset : cw.extractLsb' 40 8 = 0x01#8
  case neg =>
    exact ⟨_, _, step_of_reservedOpcode cw rest s hset hget, rfl, statusCode_lt _,
      fun h => absurd h hset, fun h => absurd h hget,
      fun _ => show statusCode .illegalCommand ≠ 0x01 by decide, fun _ _ => rfl⟩
  obtain ⟨t, r, hstep, hresponses, hlegal, hvalid⟩ := step_status_of_opcodeSet cw rest s hset
  exact ⟨t, r, hstep, hresponses, statusCode_lt _, fun _ => statusCode_injective.ne hlegal,
    fun h => absurd h hget, fun h => statusCode_injective.ne (hvalid (maskByte_of_emptySet h)),
    fun hne => absurd hset hne⟩

end Sys2Proof.Machine
end

section
/-! The command decoder and the encoder (30_encoding.md R45 to R49): a command word is the concatenation
of its slices, so each of the two undoes the other. -/

namespace Sys2Proof.Machine

/-! ### The encoder, slice by slice -/

/-- The six bytes of the word of a SET (30_encoding.md R46). -/
theorem encode_set_slices (mask flags lightOp fanOp flameOp : Byte) :
    opcodeByte (encode (.set mask flags lightOp fanOp flameOp)) = opcodeSet ∧
    (encode (.set mask flags lightOp fanOp flameOp)).extractLsb' 32 8 = mask ∧
    (encode (.set mask flags lightOp fanOp flameOp)).extractLsb' 24 8 = flags ∧
    (encode (.set mask flags lightOp fanOp flameOp)).extractLsb' 16 8 = lightOp ∧
    (encode (.set mask flags lightOp fanOp flameOp)).extractLsb' 8 8 = fanOp ∧
    (encode (.set mask flags lightOp fanOp flameOp)).extractLsb' 0 8 = flameOp :=
  setWord_slices ⟨mask, flags, lightOp, fanOp, flameOp⟩

theorem encode_get_slices (ignored : BitVec 40) :
    opcodeByte (encode (.get ignored)) = opcodeGet ∧
    (encode (.get ignored)).extractLsb' 0 40 = ignored := by
  simp (disch := omega) only [opcodeByte, encode, slice_append_high, slice_append_low]
  exact ⟨slice_whole _, slice_whole _⟩

theorem encode_resend_slices (ignored : BitVec 32) :
    opcodeByte (encode (.resend ignored)) = opcodeSet ∧
    (encode (.resend ignored)).extractLsb' 32 8 = (0 : Byte) ∧
    (encode (.resend ignored)).extractLsb' 0 32 = ignored := by
  simp (disch := omega) only [opcodeByte, encode, slice_append_high, slice_append_low]
  exact ⟨slice_whole _, slice_whole _, slice_whole _⟩

/-! ### The decoder by opcode byte -/

theorem decode_of_opcodeSet {cw : CommandWord} (h : opcodeByte cw = opcodeSet) :
    decode cw = .ok (decodeSet cw) := if_pos h

theorem decode_of_opcodeGet {cw : CommandWord} (h : opcodeByte cw = opcodeGet) :
    decode cw = .ok (.get (cw.extractLsb' 0 40)) := by
  have hset : opcodeByte cw ≠ opcodeSet := by rw [h]; decide
  rw [decode, if_neg hset, if_pos h]

theorem decodeSet_of_mask_zero {cw : CommandWord} (h : cw.extractLsb' 32 8 = (0 : Byte)) :
    decodeSet cw = .resend (cw.extractLsb' 0 32) := if_pos h

theorem decodeSet_of_mask_ne_zero {cw : CommandWord} (h : cw.extractLsb' 32 8 ≠ (0 : Byte)) :
    decodeSet cw = .set (cw.extractLsb' 32 8) (cw.extractLsb' 24 8) (cw.extractLsb' 16 8)
      (cw.extractLsb' 8 8) (cw.extractLsb' 0 8) := if_neg h

/-- The opcode byte is all that a shift by 40 leaves of a command word. -/
theorem shiftRight_eq_iff_opcodeByte (cw : CommandWord) (opcode : Byte) :
    cw >>> 40 = opcode.setWidth 48 ↔ opcodeByte cw = opcode := by
  have hlt : cw.toNat / 2 ^ 40 < 2 ^ 8 := Nat.div_lt_of_lt_mul cw.isLt
  simp only [BitVec.toNat_eq, opcodeByte, BitVec.toNat_ushiftRight, BitVec.extractLsb'_toNat,
    BitVec.toNat_setWidth, Nat.shiftRight_eq_div_pow, Nat.mod_eq_of_lt hlt,
    Nat.mod_eq_of_lt (Nat.lt_trans opcode.isLt (show 2 ^ 8 < 2 ^ 48 by decide))]

/-! ### A word is its slices -/

/-- The six bytes of a command word, put together again. -/
theorem sixBytes_eq (cw : CommandWord) :
    cw.extractLsb' 40 8 ++ cw.extractLsb' 32 8 ++ cw.extractLsb' 24 8 ++ cw.extractLsb' 16 8 ++
      cw.extractLsb' 8 8 ++ cw.extractLsb' 0 8 = cw := by
  simp (disch := omega) only [BitVec.extractLsb'_append_extractLsb'_eq_extractLsb']
  exact slice_whole cw

/-- The same with the operand field of GET and of RESEND left whole. -/
theorem opcode_append_low40 (cw : CommandWord) :
    cw.extractLsb' 40 8 ++ cw.extractLsb' 0 40 = cw := by
  simp (disch := omega) only [BitVec.extractLsb'_append_extractLsb'_eq_extractLsb']
  exact slice_whole cw

theorem opcode_append_mask_append_low32 (cw : CommandWord) :
    cw.extractLsb' 40 8 ++ cw.extractLsb' 32 8 ++ cw.extractLsb' 0 32 = cw := by
  simp (disch := omega) only [BitVec.extractLsb'_append_extractLsb'_eq_extractLsb']
  exact slice_whole cw

/-! ### The obligations -/

/-- Settles O1: the decoder reads off the encoded word the slices it was put together from. A SET's
mask is not 0, so its word is not read as RESEND. -/
theorem decodeOfEncodeGivesTheCommandBack : Obligations.DecodeOfEncodeGivesTheCommandBack := by
  intro i hwf
  cases i with
  | set mask flags lightOp fanOp flameOp =>
    have hmask : mask ≠ 0 := bne_iff_ne.mp hwf
    obtain ⟨hopcode, h32, h24, h16, h8, h0⟩ := encode_set_slices mask flags lightOp fanOp flameOp
    rw [decode_of_opcodeSet hopcode, decodeSet_of_mask_ne_zero (h32.symm ▸ hmask), h32, h24, h16, h8, h0]
  | get ignored =>
    obtain ⟨hopcode, h0⟩ := encode_get_slices ignored
    rw [decode_of_opcodeGet hopcode, h0]
  | resend ignored =>
    obtain ⟨hopcode, h32, h0⟩ := encode_resend_slices ignored
    rw [decode_of_opcodeSet hopcode, decodeSet_of_mask_zero h32, h0]

/-- Settles O2: in each case of the decoder the encoder puts the word's own slices together again. -/
theorem encodeOfDecodeGivesTheWordBack : Obligations.EncodeOfDecodeGivesTheWordBack := by
  intro cw i hdecode
  rcases decode_cases cw with ⟨hset, hmask, h⟩ | ⟨hset, hmask, h⟩ | ⟨hget, h⟩ | ⟨-, -, h⟩
  · obtain rfl := Except.ok.inj (h.symm.trans hdecode)
    refine ⟨rfl, ?_⟩
    rw [encode, ← hset, ← hmask]
    exact opcode_append_mask_append_low32 cw
  · obtain rfl := Except.ok.inj (h.symm.trans hdecode)
    refine ⟨bne_iff_ne.mpr hmask, ?_⟩
    rw [encode, ← hset]
    exact sixBytes_eq cw
  · obtain rfl := Except.ok.inj (h.symm.trans hdecode)
    refine ⟨rfl, ?_⟩
    rw [encode, ← hget]
    exact opcode_append_low40 cw
  · exact nomatch h.symm.trans hdecode

/-- Settles O3: the decoder's one rejecting case is that of the two opcode bytes excluded. -/
theorem decoderRejectsExactlyReservedOpcodes : Obligations.DecoderRejectsExactlyReservedOpcodes := by
  intro cw
  have hset : cw >>> 40 = 0x01#48 ↔ opcodeByte cw = opcodeSet :=
    shiftRight_eq_iff_opcodeByte cw opcodeSet
  have hget : cw >>> 40 = 0x02#48 ↔ opcodeByte cw = opcodeGet :=
    shiftRight_eq_iff_opcodeByte cw opcodeGet
  rw [Ne, Ne, hset, hget]
  rcases decode_cases cw with ⟨h, -, hdecode⟩ | ⟨h, -, hdecode⟩ | ⟨h, hdecode⟩ |
    ⟨hneSet, hneGet, hdecode⟩
  · simp [hdecode, h]
  · simp [hdecode, h]
  · simp [hdecode, h]
  · refine ⟨iff_of_true ⟨_, hdecode⟩ ⟨hneSet, hneGet⟩, fun e he => ?_⟩
    exact Except.error.inj (he.symm.trans hdecode)

/-- Settles O4: each word is closed, and the decoder computes. -/
theorem writtenCommandWordsDecode : Obligations.WrittenCommandWordsDecode := by
  refine ⟨?setPower, ?setFanFlame, ?setLight, ?get, ?resend, ?reserved⟩
  all_goals decide

end Sys2Proof.Machine
end

section
/-! The assembler after the disassembler (30_encoding.md R55, R56): the operand bytes it collects, and
the relevant bits of the command's word put together from the same bytes. -/

namespace Sys2Proof.Machine

/-! ### The relevant bits of a word -/

/-- The operand bytes of a SET with every ignored bit 0 (30_encoding.md R50). -/
def relevantBytes (mask flags lightOp fanOp flameOp : Byte) : SetBytes where
  mask := mask
  flags := flags &&& (mask &&& boolFieldBits)
  lightOp := lightOp &&& operandMask (selects mask .light)
  fanOp := fanOp &&& operandMask (selects mask .fan)
  flameOp := flameOp &&& operandMask (selects mask .flame)

/-- With an empty mask every operand bit is ignored. -/
theorem relevantBytes_mask_zero (flags lightOp fanOp flameOp : Byte) :
    relevantBytes 0 flags lightOp fanOp flameOp = emptySet := by
  have hselects (f : Field) : selects 0#8 f = false := BitVec.getLsbD_zero
  simp [relevantBytes, hselects, operandMask, emptySet]

/-- The relevant bits of a word with the opcode of SET, byte by byte. -/
theorem relevant_of_opcodeSet {cw : CommandWord} (h : opcodeByte cw = opcodeSet) :
    cw &&& relevantMask cw = setWord (relevantBytes (cw.extractLsb' 32 8) (cw.extractLsb' 24 8)
      (cw.extractLsb' 16 8) (cw.extractLsb' 8 8) (cw.extractLsb' 0 8)) := by
  obtain ⟨hmask, hflags, hlight, hfan, hflame⟩ := relevantMask_of_opcodeSet cw h
  have hopcode : cw.extractLsb' 40 8 = opcodeSet := h
  rw [← sixBytes_eq (cw &&& relevantMask cw)]
  simp only [BitVec.extractLsb'_and, relevantMask_opcode, hmask, hflags, hlight, hfan, hflame,
    BitVec.and_allOnes, hopcode]
  rfl

/-- The relevant bits of any other word are its opcode byte. -/
theorem relevant_of_opcode_ne_set {cw : CommandWord} (h : opcodeByte cw ≠ opcodeSet) :
    cw &&& relevantMask cw = opcodeByte cw ++ 0#40 := by
  have hrelevant : relevantMask cw = BitVec.allOnes 8 ++ 0#40 := if_neg h
  have hcut : cw &&& relevantMask cw = (cw.extractLsb' 40 8 ++ cw.extractLsb' 0 40) &&& relevantMask cw := by
    rw [opcode_append_low40]
  rw [hcut, hrelevant, BitVec.and_append, BitVec.and_allOnes, BitVec.and_zero, opcodeByte]

/-! ### The operand bytes that the assembler collects -/

/-- One field's part of a byte: its bit where the byte has it. -/
theorem and_fieldBit (x : Byte) (f : Field) :
    x &&& fieldBit f = if selects x f then fieldBit f else 0 :=
  BitVec.and_twoPow x (fieldNumber f)

/-- What the assembler makes of the disassembled assignment of a boolean field. -/
theorem foldl_disassembleFlag (m fl light fan flame mask flags : Byte) (f : BoolField) :
    (disassembleFlag mask flags f).foldl assembleAssign ⟨m, fl, light, fan, flame⟩ =
      ⟨m ||| (mask &&& fieldBit (boolField f)), fl ||| (flags &&& (mask &&& fieldBit (boolField f))),
        light, fan, flame⟩ := by
  rw [and_fieldBit mask, disassembleFlag]
  cases selects mask (boolField f) with
  | false => simp
  | true =>
    rw [if_pos rfl, if_pos rfl, and_fieldBit flags, List.foldl_cons, List.foldl_nil, assembleAssign,
      flagOperand, ← selects]
    cases selects flags (boolField f) <;> simp

theorem and_operandMask (op : Byte) (selected : Bool) :
    op &&& operandMask selected = if selected then op else 0 := by
  cases selected with
  | false => exact BitVec.and_zero
  | true => exact BitVec.and_allOnes

/-- The operand byte of a level field. -/
def SetBytes.level (b : SetBytes) : LevelField → Byte
  | .light => b.lightOp
  | .fan => b.fanOp
  | .flame => b.flameOp

/-- The operand bytes with that of a level field written. -/
def SetBytes.withLevel (b : SetBytes) (op : Byte) : LevelField → SetBytes
  | .light => { b with lightOp := op }
  | .fan => { b with fanOp := op }
  | .flame => { b with flameOp := op }

theorem SetBytes.withLevel_level (b : SetBytes) (f : LevelField) : b.withLevel (b.level f) f = b := by
  cases f <;> rfl

theorem assembleAssign_level (b : SetBytes) (f : LevelField) (op : Byte) :
    assembleAssign b (.level f op) =
      SetBytes.withLevel { b with mask := b.mask ||| fieldBit (levelField f) } op f := by
  cases f <;> rfl

/-- What the assembler makes of the disassembled assignment of a level field not written before. -/
theorem foldl_disassembleLevel (b : SetBytes) (mask op : Byte) (f : LevelField) (h : b.level f = 0) :
    (disassembleLevel mask op f).foldl assembleAssign b =
      SetBytes.withLevel { b with mask := b.mask ||| (mask &&& fieldBit (levelField f)) }
        (op &&& operandMask (selects mask (levelField f))) f := by
  rw [and_fieldBit, and_operandMask, disassembleLevel]
  cases selects mask (levelField f) with
  | false => simpa [h] using (b.withLevel_level f).symm
  | true => simp [assembleAssign_level]

theorem foldl_disassembleLevel_light (m fl fan flame mask op : Byte) :
    (disassembleLevel mask op .light).foldl assembleAssign ⟨m, fl, 0, fan, flame⟩ =
      ⟨m ||| (mask &&& fieldBit .light), fl, op &&& operandMask (selects mask .light), fan, flame⟩ :=
  foldl_disassembleLevel ⟨m, fl, 0, fan, flame⟩ mask op .light rfl

theorem foldl_disassembleLevel_fan (m fl light flame mask op : Byte) :
    (disassembleLevel mask op .fan).foldl assembleAssign ⟨m, fl, light, 0, flame⟩ =
      ⟨m ||| (mask &&& fieldBit .fan), fl, light, op &&& operandMask (selects mask .fan), flame⟩ :=
  foldl_disassembleLevel ⟨m, fl, light, 0, flame⟩ mask op .fan rfl

theorem foldl_disassembleLevel_flame (m fl light fan mask op : Byte) :
    (disassembleLevel mask op .flame).foldl assembleAssign ⟨m, fl, light, fan, 0⟩ =
      ⟨m ||| (mask &&& fieldBit .flame), fl, light, fan, op &&& operandMask (selects mask .flame)⟩ :=
  foldl_disassembleLevel ⟨m, fl, light, fan, 0⟩ mask op .flame rfl

/-- The assignments that the disassembler gives for a SET. -/
def disassembledSet (mask flags lightOp fanOp flameOp : Byte) : List Assign :=
  disassembleFlag mask flags .pilot ++ disassembleLevel mask lightOp .light ++
    disassembleFlag mask flags .thermostat ++ disassembleFlag mask flags .power ++
    disassembleFlag mask flags .front ++ disassembleLevel mask fanOp .fan ++
    disassembleFlag mask flags .aux ++ disassembleLevel mask flameOp .flame

theorem disassemble_set (mask flags lightOp fanOp flameOp : Byte) :
    disassemble (.set mask flags lightOp fanOp flameOp) =
      .set (disassembledSet mask flags lightOp fanOp flameOp) := rfl

/-- The eight fields' bits make up the mask, and the boolean fields' bits the relevant flags. -/
theorem assembleSet_disassembledSet (mask flags lightOp fanOp flameOp : Byte) :
    assembleSet (disassembledSet mask flags lightOp fanOp flameOp) =
      relevantBytes mask flags lightOp fanOp flameOp := by
  have hallFields : fieldBit .pilot ||| fieldBit .light ||| fieldBit .thermostat ||| fieldBit .power |||
      fieldBit .front ||| fieldBit .fan ||| fieldBit .aux ||| fieldBit .flame = BitVec.allOnes 8 := by decide
  have hboolFields : fieldBit .pilot ||| fieldBit .thermostat ||| fieldBit .power ||| fieldBit .front |||
      fieldBit .aux = boolFieldBits := by decide
  simp only [assembleSet, disassembledSet, List.foldl_append, emptySet, foldl_disassembleFlag, boolField,
    foldl_disassembleLevel_light, foldl_disassembleLevel_fan, foldl_disassembleLevel_flame]
  have hzero (x : Byte) : 0 ||| x = x := BitVec.zero_or
  have hmask := BitVec.and_allOnes (x := mask)
  rw [← hallFields] at hmask
  rw [relevantBytes, ← hboolFields]
  simp only [BitVec.and_or_distrib_left] at hmask ⊢
  simp only [hzero, hmask]

/-! ### No field twice -/

theorem disassembleFlag_fields (mask flags : Byte) (f : BoolField) :
    ((disassembleFlag mask flags f).map assignField).Sublist [boolField f] := by
  unfold disassembleFlag
  split
  · exact List.Sublist.refl _
  · exact List.nil_sublist _

theorem disassembleLevel_fields (mask op : Byte) (f : LevelField) :
    ((disassembleLevel mask op f).map assignField).Sublist [levelField f] := by
  unfold disassembleLevel
  split
  · exact List.Sublist.refl _
  · exact List.nil_sublist _

/-- The disassembler names each field at most once, in field-number order. -/
theorem disassembledSet_nodup (mask flags lightOp fanOp flameOp : Byte) :
    ((disassembledSet mask flags lightOp fanOp flameOp).map assignField).Nodup := by
  have hfields : ((disassembledSet mask flags lightOp fanOp flameOp).map assignField).Sublist
      [.pilot, .light, .thermostat, .power, .front, .fan, .aux, .flame] := by
    simp only [disassembledSet, List.map_append]
    exact (((((((disassembleFlag_fields mask flags .pilot).append
      (disassembleLevel_fields mask lightOp .light)).append
      (disassembleFlag_fields mask flags .thermostat)).append
      (disassembleFlag_fields mask flags .power)).append
      (disassembleFlag_fields mask flags .front)).append
      (disassembleLevel_fields mask fanOp .fan)).append
      (disassembleFlag_fields mask flags .aux)).append
      (disassembleLevel_fields mask flameOp .flame)
  exact hfields.nodup (by decide)

/-! ### The obligation -/

/-- Settles O59: the assembler collects the relevant operand bytes of a SET; of a RESEND there are none,
and of a GET only the opcode byte is relevant. -/
theorem disassembledCommandAssemblesToItsRelevantBits :
    Obligations.DisassembledCommandAssemblesToItsRelevantBits := by
  intro i
  cases i with
  | set mask flags lightOp fanOp flameOp =>
    obtain ⟨hopcode, h32, h24, h16, h8, h0⟩ := encode_set_slices mask flags lightOp fanOp flameOp
    rw [relevant_of_opcodeSet hopcode, h32, h24, h16, h8, h0, disassemble_set, assemble,
      if_pos (disassembledSet_nodup ..), assembleSet_disassembledSet]
  | get ignored =>
    obtain ⟨hopcode, -⟩ := encode_get_slices ignored
    rw [relevant_of_opcode_ne_set (by rw [hopcode]; decide), hopcode]
    rfl
  | resend ignored =>
    obtain ⟨hopcode, hmask, -⟩ := encode_resend_slices ignored
    rw [relevant_of_opcodeSet hopcode, hmask, relevantBytes_mask_zero]
    exact congrArg some (by decide)

end Sys2Proof.Machine
end

section
/-! The whole machine: the step at each kind of event, a run of command words, and the invariant that
every step keeps. -/

namespace Sys2Proof.Machine

/-! ### The step at a command word -/

/-- A command that reaches step 3 of SET (40_state_model_commands.md R71) updates the registers and
hands over. -/
theorem step_of_reachesHandOff {cw : CommandWord} (h : reachesHandOff cw = true) :
    ∃ update : FieldRegs → FieldRegs, ∀ rest s, step (presenting (.command cw) rest s) =
      .next (handOff { s with port := rest, fields := update s.fields }) := by
  simp only [step_presenting_command]
  unfold reachesHandOff at h
  split at h
  case h_1 hdecode =>
    rw [hdecode]
    exact ⟨_, fun _ _ => exec_set_of_setValid h _ _⟩
  case h_2 hdecode =>
    rw [hdecode]
    exact ⟨id, fun _ _ => exec_resend _ _⟩
  case h_3 => exact absurd h Bool.false_ne_true
  case h_4 => exact absurd h Bool.false_ne_true

/-- Any other command word is answered and nothing else. -/
theorem step_of_not_reachesHandOff {cw : CommandWord} (h : reachesHandOff cw = false) :
    ∃ status errField errValue, ∀ rest s, step (presenting (.command cw) rest s) =
      .next (respond status errField errValue { s with port := rest }) := by
  simp only [step_presenting_command]
  unfold reachesHandOff at h
  split at h
  case h_1 hdecode =>
    rw [hdecode]
    obtain ⟨_, _, _, hexec⟩ := exec_set_of_not_setValid h
    exact ⟨_, _, _, fun _ _ => hexec _ _⟩
  case h_2 => exact absurd h.symm Bool.false_ne_true
  case h_3 hdecode =>
    rw [hdecode]
    exact ⟨_, _, _, fun _ _ => exec_get _ _⟩
  case h_4 e hdecode =>
    rw [hdecode]
    cases e with
    | illegalOpcode opcode => exact ⟨_, _, _, fun _ _ => rfl⟩

/-- What every command word does: one next state with the event taken, the configuration kept, one more
response and, only by a hand-off, one more packet. -/
theorem step_command_adds (cw : CommandWord) (rest : List PortEvent) (s : State) :
    ∃ t r events, step (presenting (.command cw) rest s) = .next t ∧ t.port = rest ∧ t.cfg = s.cfg ∧
      t.responses = s.responses ++ [r] ∧ r.snapshot = snapshotOf t ∧ t.trace = s.trace ++ events ∧
      events.length ≤ (reachesHandOff cw).toNat := by
  cases hreach : reachesHandOff cw with
  | false =>
    obtain ⟨_, _, _, hstep⟩ := step_of_not_reachesHandOff hreach
    exact ⟨_, _, [], hstep rest s, rfl, rfl, rfl, rfl, by simp, by simp⟩
  | true =>
    obtain ⟨update, hstep⟩ := step_of_reachesHandOff hreach
    rcases handOff_trace_cases { s with port := rest, fields := update s.fields } with htrace | htrace
    · exact ⟨_, _, [], hstep rest s, handOff_port _, handOff_cfg _, handOff_response _,
        (snapshotOf_handOff _).symm, htrace.trans (List.append_nil _).symm, Nat.zero_le _⟩
    · exact ⟨_, _, _, hstep rest s, handOff_port _, handOff_cfg _, handOff_response _,
        (snapshotOf_handOff _).symm, htrace, Nat.le_refl _⟩

/-! ### Runs -/

/-- A run that begins with a step to a next state goes on from there. -/
theorem run_succ_of_step {M : Host.Core} {s t : M.State} (h : M.step s = .next t) (k : Nat) :
    M.run (k + 1) s = M.run k t := by
  rw [Host.Core.run, h]

/-- A run over presented command words, one step each. The induction is on the list, from any state:
what the first step leaves is where the rest of the run begins. -/
theorem run_commands (cws : List CommandWord) (s : State) : ∃ t,
    Host.Core.run Sys2Proof.core cws.length { s with port := cws.map .command } = .next t ∧
    t.port = [] ∧ t.cfg = s.cfg ∧
    (∃ rs : List Response, t.responses = s.responses ++ rs ∧ rs.length = cws.length) ∧
    ∃ es : List Transmit, t.trace = s.trace ++ es ∧ es.length ≤ cws.countP reachesHandOff := by
  induction cws generalizing s with
  | nil => exact ⟨_, rfl, rfl, rfl, ⟨[], by simp⟩, [], by simp⟩
  | cons cw cws ih =>
    obtain ⟨u, r, events, hstep, hport, hcfg, hresponses, -, htrace, hevents⟩ :=
      step_command_adds cw (cws.map .command) s
    obtain ⟨t, hrun, htport, htcfg, ⟨rs, htresponses, hrs⟩, es, httrace, hes⟩ := ih u
    have hu : { u with port := cws.map .command } = u := by rw [← hport]
    rw [hu] at hrun
    refine ⟨t, (run_succ_of_step hstep _).trans hrun, htport, htcfg.trans hcfg,
      ⟨r :: rs, by simp [htresponses, hresponses], by simp [hrs]⟩,
      events ++ es, by simp [httrace, htrace], ?_⟩
    have hfirst : (if reachesHandOff cw = true then 1 else 0) = (reachesHandOff cw).toNat := by
      cases reachesHandOff cw <;> rfl
    rw [List.length_append, List.countP_cons, hfirst]
    omega

/-! ### The invariant -/

theorem responseLegal_ok {s : State} (h : levelsLegal s.fields) :
    responseLegal s.cfg ⟨.ok, 0xFF, 0x00, snapshotOf s⟩ := ⟨rfl, rfl, rfl, h, rfl, rfl⟩

theorem responseLegal_transmitUnavailable {s : State} (h : levelsLegal s.fields) :
    responseLegal s.cfg ⟨.transmitUnavailable, 0xFF, 0x00, snapshotOf s⟩ :=
  ⟨rfl, rfl, rfl, h, rfl, rfl⟩

/-- A rejected operand is above 6, and so at least 7. -/
theorem seven_le_of_rejects {mask op : Byte} {n : Nat} (h : rejects mask op n = true) : 7 ≤ op := by
  obtain ⟨-, hop⟩ := Bool.and_eq_true_iff.mp h
  have hlt : 6 < op.toNat := of_decide_eq_true hop
  exact BitVec.le_def.mpr hlt

theorem responseLegal_validationError {s : State} {mask lightOp fanOp flameOp errField errValue : Byte}
    (h : levelsLegal s.fields) (hnames : NamesRejected mask lightOp fanOp flameOp errField errValue) :
    responseLegal s.cfg ⟨.validationError, errField, errValue, snapshotOf s⟩ := by
  refine ⟨rfl, rfl, rfl, h, ?_⟩
  rcases hnames with ⟨rfl, rfl, hrejects⟩ | ⟨rfl, rfl, hrejects⟩ | ⟨rfl, rfl, hrejects⟩
  · exact ⟨.inl rfl, seven_le_of_rejects hrejects⟩
  · exact ⟨.inr (.inl rfl), seven_le_of_rejects hrejects⟩
  · exact ⟨.inr (.inr rfl), seven_le_of_rejects hrejects⟩

theorem responseLegal_illegalCommand {s : State} {cw : CommandWord} {opcode : Byte}
    (h : levelsLegal s.fields) (hdecode : decode cw = .error (.illegalOpcode opcode)) :
    responseLegal s.cfg ⟨.illegalCommand, 0xFF, opcode, snapshotOf s⟩ := by
  rcases decode_cases cw with ⟨-, -, hok⟩ | ⟨-, -, hok⟩ | ⟨-, hok⟩ | ⟨hset, hget, herror⟩
  · exact nomatch hok.symm.trans hdecode
  · exact nomatch hok.symm.trans hdecode
  · exact nomatch hok.symm.trans hdecode
  · obtain rfl := DecodeError.illegalOpcode.inj (Except.error.inj (herror.symm.trans hdecode))
    exact ⟨rfl, rfl, rfl, h, rfl, hset, hget⟩

/-- The invariant does not speak of the port. -/
theorem SafeState.withPort {s : State} (h : SafeState s) (port : List PortEvent) :
    SafeState { s with port := port } := h

theorem SafeState.withFields {s : State} (h : SafeState s) {st : FieldRegs} (hst : levelsLegal st) :
    SafeState { s with fields := st } := by
  obtain ⟨-, htrace, hresponses, hcount⟩ := h
  exact ⟨hst, htrace, hresponses, hcount⟩

/-- What a command may add to a safe state: one legal response and, with an OK response only, the packet
of the legal registers it leaves. -/
theorem SafeState.of_answer {s t : State} {r : Response} (h : SafeState s) (hcfg : t.cfg = s.cfg)
    (hlevels : levelsLegal t.fields) (hresponses : t.responses = s.responses ++ [r])
    (hlegal : responseLegal s.cfg r)
    (htrace : t.trace = s.trace ∨
      r.status = .ok ∧ t.trace = s.trace ++ [⟨encodePacket t.cfg t.fields, 5⟩]) :
    SafeState t := by
  obtain ⟨-, htraceLegal, hresponsesLegal, hcount⟩ := h
  have hallResponses : ∀ r' ∈ t.responses, responseLegal t.cfg r' := by
    rw [hresponses, hcfg, List.forall_mem_append, List.forall_mem_singleton]
    exact ⟨hresponsesLegal, hlegal⟩
  have hok : okResponses t = okResponses s ++ [r].filter (·.status == .ok) := by
    rw [okResponses, hresponses, List.filter_append, okResponses]
  rcases htrace with hkept | ⟨hstatus, hgrown⟩
  case inl =>
    refine ⟨hlevels, by rwa [hkept, hcfg], hallResponses, ?_⟩
    rw [hkept, hok, List.length_append]
    exact Nat.le_add_right_of_le hcount
  case inr =>
    refine ⟨hlevels, ?_, hallResponses, ?_⟩
    · rw [hgrown, List.forall_mem_append, List.forall_mem_singleton]
      exact ⟨hcfg ▸ htraceLegal, rfl, t.fields, hlevels, rfl⟩
    · simpa [hgrown, hok, hstatus] using hcount

/-- A legal response keeps the invariant when nothing else changes. -/
theorem SafeState.respond {s : State} {status : Status} {errField errValue : Byte} (h : SafeState s)
    (hlegal : responseLegal s.cfg ⟨status, errField, errValue, snapshotOf s⟩) :
    SafeState (respond status errField errValue s) :=
  h.of_answer rfl h.1 rfl hlegal (.inl rfl)

/-- The hand-off adds a packet with an OK response only. -/
theorem SafeState.handOff {s : State} (h : SafeState s) : SafeState (handOff s) := by
  have hlevels : levelsLegal (Machine.handOff s).fields := by rw [handOff_fields]; exact h.1
  cases hradio : radioAvail s with
  | false =>
    exact h.of_answer (handOff_cfg s) hlevels (handOff_response s)
      (by simpa [hradio] using responseLegal_transmitUnavailable h.1) (.inl (by simp [hradio]))
  | true =>
    exact h.of_answer (handOff_cfg s) hlevels (handOff_response s)
      (by simpa [hradio] using responseLegal_ok h.1) (.inr (by simp [hradio]))

theorem levelsLegal_resetFields : levelsLegal resetFields := by
  unfold levelsLegal
  decide

theorem SafeState.applyReset (cfg : Cfg) (s : State) : SafeState (applyReset cfg s) :=
  ⟨levelsLegal_resetFields, by simp, by simp, Nat.le_refl _⟩

/-- Every command keeps the invariant: a rejected SET and GET respond, a valid SET leaves legal levels
(10_state.md R12) and, as RESEND, hands over. -/
theorem SafeState.exec {i : Instr} {s t : State} (h : SafeState s) (hexec : exec i s = .next t) :
    SafeState t := by
  cases i with
  | set mask flags lightOp fanOp flameOp =>
    cases hvalid : setValid mask lightOp fanOp flameOp with
    | false =>
      obtain ⟨errField, errValue, hnames, hrejected⟩ := exec_set_rejected hvalid
      obtain rfl := Host.Outcome.next.inj ((hrejected flags s).symm.trans hexec)
      exact h.respond (responseLegal_validationError h.1 hnames)
    | true =>
      have hlevels := applyUpdates_levelsLegal mask flags lightOp fanOp flameOp s.fields h.1
        ((setValid_iff_firstInvalid ..).mp hvalid)
      rw [applyUpdates_eq_fieldsAfterSet] at hlevels
      obtain rfl := Host.Outcome.next.inj ((exec_set_of_setValid hvalid flags s).symm.trans hexec)
      exact (h.withFields hlevels).handOff
  | get ignored =>
    obtain rfl := Host.Outcome.next.inj ((exec_get ignored s).symm.trans hexec)
    exact h.respond (responseLegal_ok h.1)
  | resend ignored =>
    obtain rfl := Host.Outcome.next.inj ((exec_resend ignored s).symm.trans hexec)
    exact h.handOff

/-! ### The obligations -/

/-- Settles O52: of the four things a step can do, holding and a reset keep the invariant at once, a
decoded command by `SafeState.exec`, and an illegal word is answered with a reserved opcode byte. -/
theorem everyStepKeepsTheInvariant : Obligations.EveryStepKeepsTheInvariant := by
  intro s t hsafe hstep
  rcases step_cases s t hstep with ⟨-, rfl⟩ | ⟨cfg, rest, -, rfl⟩ | ⟨cw, rest, i, -, -, hexec⟩ |
    ⟨cw, rest, ⟨opcode⟩, -, hdecode, rfl⟩
  · exact hsafe
  · exact .applyReset cfg _
  · exact (hsafe.withPort rest).exec hexec
  · exact (hsafe.withPort rest).respond (responseLegal_illegalCommand hsafe.1 hdecode)

/-- Settles O53: a reset sample is a reset event applied to the idle core. -/
theorem invariantHoldsAfterReset : Obligations.InvariantHoldsAfterReset := by
  have hreset (cfg : Cfg) : SafeState (State.resetWith cfg) := .applyReset cfg (State.resetWith cfg)
  exact ⟨hreset, hreset defaultCfg⟩

/-- Settles O5. -/
theorem stepRunsTheDecodedCommand : Obligations.StepRunsTheDecodedCommand := by
  intro s cw rest i hdecode
  rw [step_presenting_command, hdecode]

/-- Settles O7 (60_exceptions.md R160). -/
theorem idleCoreHoldsItsState : Obligations.IdleCoreHoldsItsState := by
  intro s
  rw [step, takeEvent_nil _ rfl]

/-- Settles O10: the step applies the reset, which keeps the coming moves and nothing else. -/
theorem resetTransmitsNothing : Obligations.ResetTransmitsNothing := fun s cfg rest =>
  ⟨_, step_presenting_reset cfg rest s, applyReset_trace .., applyReset_responses ..,
    applyReset_port .., applyReset_radioAnswers .., applyReset_radioDraws ..⟩

/-- Settles O13: a valid SET is its update and the hand-off of the updated state. -/
theorem setCompletes : Obligations.SetCompletes := by
  intro mask flags lightOp fanOp flameOp s hvalid hradio
  exact ⟨_, exec_set_of_setValid hvalid flags s, by simp, by simp, by simp, by simp [hradio],
    by simp [hradio], by simp⟩

/-- Settles O20: a RESEND is the hand-off of the state as it is. -/
theorem resendCompletes : Obligations.ResendCompletes := by
  intro ignored s hradio
  exact ⟨_, exec_resend ignored s, by simp, by simp, by simp, by simp [hradio], by simp [hradio],
    by simp⟩

/-- Settles O22. -/
theorem everyCommandIsAnsweredOnce : Obligations.EveryCommandIsAnsweredOnce := by
  intro s cw rest
  obtain ⟨t, r, -, hstep, hport, hcfg, hresponses, hsnapshot, -, -⟩ := step_command_adds cw rest s
  exact ⟨t, r, hstep, hresponses, hsnapshot, hcfg, hport⟩

/-- Settles O51: the port is empty, or its first event is a reset or a command word, and each is taken. -/
theorem noStepStopsTheCore : Obligations.NoStepStopsTheCore := by
  intro s
  match hport : s.port with
  | [] => exact ⟨s, by rw [step, takeEvent_nil s hport]⟩
  | .reset cfg :: rest => exact ⟨_, by rw [step, takeEvent_cons s _ _ hport]⟩
  | .command cw :: rest =>
    obtain ⟨t, -, -, hstep, -⟩ := step_command_adds cw rest s
    have hs : presenting (.command cw) rest s = s := by rw [presenting, ← hport]
    exact ⟨t, hs ▸ hstep⟩

/-- Settles O54: of the four things a step can do, only the reset does not keep the configuration. -/
theorem onlyResetChangesTheConfiguration : Obligations.OnlyResetChangesTheConfiguration := by
  intro s t hstep hchanged
  rcases step_cases s t hstep with ⟨-, rfl⟩ | ⟨cfg, rest, hport, rfl⟩ | ⟨cw, rest, i, -, -, hexec⟩ |
    ⟨cw, rest, ⟨opcode⟩, -, -, rfl⟩
  · exact absurd rfl hchanged
  · exact ⟨cfg, rest, hport, applyReset_cfg ..⟩
  · obtain ⟨u, -, hexec', -, -, hcfg, -⟩ := exec_answers i { s with port := rest }
    obtain rfl := Host.Outcome.next.inj (hexec'.symm.trans hexec)
    exact absurd hcfg hchanged
  · exact absurd (takeIllegal_cfg opcode _) hchanged

/-- Settles O55: only a hand-off writes the trace, and it asks the radio first. -/
theorem traceGrowsOnlyByAHandOff : Obligations.TraceGrowsOnlyByAHandOff := by
  intro s cw rest
  cases hreach : reachesHandOff cw with
  | false =>
    obtain ⟨_, _, _, hstep⟩ := step_of_not_reachesHandOff hreach
    exact ⟨_, hstep rest s, by simp⟩
  | true =>
    obtain ⟨update, hstep⟩ := step_of_reachesHandOff hreach
    have hradio : radioAvail { s with port := rest, fields := update s.fields } = radioAvail s :=
      radioAvail_congr _ _ rfl rfl
    exact ⟨_, hstep rest s, by simp [hradio]⟩

/-- Settles O56: only a hand-off samples the radio, once. -/
theorem radioIsSampledOnceByAHandOff : Obligations.RadioIsSampledOnceByAHandOff := by
  intro s cw rest
  cases hreach : reachesHandOff cw with
  | false =>
    obtain ⟨_, _, _, hstep⟩ := step_of_not_reachesHandOff hreach
    exact ⟨_, hstep rest s, by simp⟩
  | true =>
    obtain ⟨update, hstep⟩ := step_of_reachesHandOff hreach
    exact ⟨_, hstep rest s, by simp⟩

/-- Settles O58, by induction on the list of command words. -/
theorem commandSequenceCompletes : Obligations.CommandSequenceCompletes := by
  intro cws s
  obtain ⟨t, hrun, hport, hcfg, hresponses, es, htrace, hes⟩ := run_commands cws s
  exact ⟨t, hrun, hport, hcfg, hresponses, es, htrace, List.countP_eq_length_filter ▸ hes⟩

end Sys2Proof.Machine
end

section
/-! The command words and the response word (41_word_encoder.md R90, R91, 30_encoding.md R51): each is
a concatenation whose parts can be read back, so it loses nothing. -/

namespace Sys2Proof.Machine

/-! ### The command words tell the fields -/

theorem ofBool_injective : Function.Injective BitVec.ofBool := by
  intro a b
  cases a <;> cases b <;> decide

/-- The fields of `Cmd1` read back (41_word_encoder.md R90). -/
theorem cmd1_slices (st : FieldRegs) :
    (cmd1 st).extractLsb' 7 1 = BitVec.ofBool st.pilot ∧ (cmd1 st).extractLsb' 4 3 = st.light ∧
    (cmd1 st).extractLsb' 1 1 = BitVec.ofBool st.thermostat ∧
    (cmd1 st).extractLsb' 0 1 = BitVec.ofBool st.power := by
  simp (disch := omega) only [cmd1, slice_append_high, slice_append_low]
  exact ⟨slice_whole _, slice_whole _, slice_whole _, slice_whole _⟩

/-- The fields of `Cmd2` read back (41_word_encoder.md R91). -/
theorem cmd2_slices (st : FieldRegs) :
    (cmd2 st).extractLsb' 7 1 = BitVec.ofBool st.front ∧ (cmd2 st).extractLsb' 4 3 = st.fan ∧
    (cmd2 st).extractLsb' 3 1 = BitVec.ofBool st.aux ∧ (cmd2 st).extractLsb' 0 3 = st.flame := by
  simp (disch := omega) only [cmd2, slice_append_high, slice_append_low]
  exact ⟨slice_whole _, slice_whole _, slice_whole _, slice_whole _⟩

/-- The two command words together tell all eight fields. -/
theorem fields_eq_of_cmds_eq {st st' : FieldRegs} (h1 : cmd1 st = cmd1 st') (h2 : cmd2 st = cmd2 st') :
    st = st' := by
  obtain ⟨hpilot, hlight, hthermostat, hpower⟩ := cmd1_slices st
  obtain ⟨hfront, hfan, haux, hflame⟩ := cmd2_slices st
  rw [h1] at hpilot hlight hthermostat hpower
  rw [h2] at hfront hfan haux hflame
  obtain ⟨hpilot', hlight', hthermostat', hpower'⟩ := cmd1_slices st'
  obtain ⟨hfront', hfan', haux', hflame'⟩ := cmd2_slices st'
  rw [FieldRegs.mk.injEq]
  exact ⟨ofBool_injective (hpilot.symm.trans hpilot'), hlight.symm.trans hlight',
    ofBool_injective (hthermostat.symm.trans hthermostat'), ofBool_injective (hpower.symm.trans hpower'),
    ofBool_injective (hfront.symm.trans hfront'), hfan.symm.trans hfan',
    ofBool_injective (haux.symm.trans haux'), hflame.symm.trans hflame'⟩

/-! ### The obligations on the response word -/

/-- Settles O23: each slice lies in one part of the concatenation and is all of it. -/
theorem responseWordLayout : Obligations.ResponseWordLayout := by
  intro r
  simp (disch := omega) only [rspWord, slice_append_high, slice_append_low]
  exact ⟨slice_whole _, slice_whole _, slice_whole _, slice_whole _, slice_whole _, slice_whole _,
    slice_whole _, slice_whole _, slice_whole _⟩

/-- Settles O24: the layout of O23 reads every part of the record back. -/
theorem responseWordDeterminesTheResponse : Obligations.ResponseWordDeterminesTheResponse := by
  intro r r' h
  obtain ⟨hstatus, hfield, hvalue, -, hserial0, hserial1, hserial2, hcmd1, hcmd2⟩ := responseWordLayout r
  rw [h] at hstatus hfield hvalue hserial0 hserial1 hserial2 hcmd1 hcmd2
  obtain ⟨hstatus', hfield', hvalue', -, hserial0', hserial1', hserial2', hcmd1', hcmd2'⟩ :=
    responseWordLayout r'
  have hsnapshot : r.snapshot = r'.snapshot := by
    rw [Snapshot.mk.injEq]
    exact ⟨hserial0.symm.trans hserial0', hserial1.symm.trans hserial1', hserial2.symm.trans hserial2',
      fields_eq_of_cmds_eq (hcmd1.symm.trans hcmd1') (hcmd2.symm.trans hcmd2')⟩
  rw [Response.mk.injEq]
  exact ⟨statusCode_injective (hstatus.symm.trans hstatus'), hfield.symm.trans hfield',
    hvalue.symm.trans hvalue', hsnapshot⟩

end Sys2Proof.Machine
end

section
/-! The checksums (42_checksum_generator.md section 7): affine over exclusive or, because every operation
on the nibbles is linear over it but the seed. -/

namespace Sys2Proof.Machine

/-! ### Linearity -/

theorem highNibble_xor (a b : Byte) : highNibble (a ^^^ b) = highNibble a ^^^ highNibble b :=
  BitVec.extractLsb'_xor

theorem lowNibble_xor (a b : Byte) : lowNibble (a ^^^ b) = lowNibble a ^^^ lowNibble b :=
  BitVec.extractLsb'_xor

theorem shiftOut_xor (v w : BitVec 4) : shiftOut (v ^^^ w) = shiftOut v ^^^ shiftOut w := by
  rw [shiftOut, shiftOut, shiftOut, BitVec.xor_append]
  rfl

/-- The mask keeps the four bits that the nibble is cut from. -/
theorem highMix_eq (hi lo : BitVec 4) :
    highMix hi lo = (hi.zeroExtend 5 ^^^ shiftOut hi ^^^ shiftOut lo).extractLsb' 0 4 := by
  have hmask : (0xF : BitVec 5).extractLsb' 0 4 = BitVec.allOnes 4 := rfl
  rw [highMix, BitVec.extractLsb'_and, hmask, BitVec.and_allOnes]

theorem highMix_xor (hi lo hi' lo' : BitVec 4) :
    highMix (hi ^^^ hi') (lo ^^^ lo') = highMix hi lo ^^^ highMix hi' lo' := by
  simp only [highMix_eq, shiftOut_xor, BitVec.extractLsb'_xor, BitVec.truncate_eq_setWidth,
    BitVec.setWidth_xor]
  ac_rfl

/-- What the two checksums have in common: `Ecc1` and `Ecc2` without their seeds. -/
def eccMix (c : Byte) : Byte :=
  highMix (highNibble c) (lowNibble c) ++ (highNibble c ^^^ lowNibble c)

/-- The seed of `Ecc1` stands in the high nibble (42_checksum_generator.md R100). -/
theorem ecc1_eq (c : Byte) : ecc1 c = 0xD0 ^^^ eccMix c := by
  have hseed : (0xD0 : Byte) = ecc1Seed ++ 0#4 := rfl
  rw [hseed, eccMix, BitVec.xor_append, BitVec.zero_xor, ecc1]

/-- The seed of `Ecc2` stands in the low nibble (42_checksum_generator.md R101). -/
theorem ecc2_eq (c : Byte) : ecc2 c = eccMix c ^^^ 0x07 := by
  have hseed : (0x07 : Byte) = 0#4 ++ ecc2Seed := rfl
  rw [hseed, eccMix, BitVec.xor_append, BitVec.xor_zero, ecc2]

theorem eccMix_xor (a b : Byte) : eccMix (a ^^^ b) = eccMix a ^^^ eccMix b := by
  have hlow : highNibble a ^^^ highNibble b ^^^ (lowNibble a ^^^ lowNibble b) =
      (highNibble a ^^^ lowNibble a) ^^^ (highNibble b ^^^ lowNibble b) := by ac_rfl
  rw [eccMix, highNibble_xor, lowNibble_xor, highMix_xor, hlow, ← BitVec.xor_append, eccMix, eccMix]

theorem eccMix_eq_zero : ∀ c : Byte, eccMix c = 0 → c = 0 := by decide +kernel

/-- A linear map with trivial kernel. -/
theorem eccMix_injective : Function.Injective eccMix := by
  intro a b h
  have hzero : eccMix (a ^^^ b) = 0 := by
    rw [eccMix_xor, h]
    exact BitVec.xor_self
  exact BitVec.xor_eq_zero_iff.mp (eccMix_eq_zero _ hzero)

/-! ### The obligations -/

/-- Settles O33: both checksums are the linear injective `eccMix` and a seed. -/
theorem checksumsAreAffineBijections : Obligations.ChecksumsAreAffineBijections := by
  simp only [Obligations.ChecksumsAreAffineBijections, ecc1_eq, ecc2_eq, eccMix_xor]
  refine ⟨?injective1, ?injective2, ?difference, ?affine1, ?affine2⟩
  case injective1 => exact fun a b h => eccMix_injective ((BitVec.xor_right_inj _).mp h)
  case injective2 => exact fun a b h => eccMix_injective ((BitVec.xor_left_inj _).mp h)
  case difference =>
    intro c
    calc 0xD0 ^^^ eccMix c ^^^ (eccMix c ^^^ 0x07)
        = 0xD0 ^^^ 0x07 ^^^ (eccMix c ^^^ eccMix c) := by ac_rfl
      _ = 0xD7 := by rw [BitVec.xor_self]; rfl
  case affine1 =>
    intro a b
    calc 0xD0 ^^^ (eccMix a ^^^ eccMix b)
        = 0xD0 ^^^ 0xD0 ^^^ 0xD0 ^^^ (eccMix a ^^^ eccMix b) := rfl
      _ = 0xD0 ^^^ eccMix a ^^^ (0xD0 ^^^ eccMix b) ^^^ 0xD0 := by ac_rfl
  case affine2 =>
    intro a b
    calc eccMix a ^^^ eccMix b ^^^ 0x07
        = eccMix a ^^^ eccMix b ^^^ (0x07 ^^^ 0x07 ^^^ 0x07) := rfl
      _ = eccMix a ^^^ 0x07 ^^^ (eccMix b ^^^ 0x07) ^^^ 0x07 := by ac_rfl

/-- Settles O34: words 5 and 6 of the packet are framed from `Ecc1(cmd1)` and `Ecc2(cmd2)`. -/
theorem checksumsDependOnTheirCommandWordOnly : Obligations.ChecksumsDependOnTheirCommandWordOnly := by
  intro cfg cfg' st st'
  refine ⟨fun h => ?word5, fun h => ?word6⟩
  case word5 => simp [packetWords, h]
  case word6 => simp [packetWords, h]

end Sys2Proof.Machine
end

section
/-! The parity input of a packet word (43_frame_builder.md R111): padding zeros add no ones. -/

namespace Sys2Proof.Machine

theorem count_true_scratch12 (c : Byte) :
    (streamBits (scratch12 c)).count true = (streamBits c).count true := by
  simp [streamBits_scratch12]

theorem count_true_framedWord (c : Byte) :
    (streamBits (framedWord c)).count true = (streamBits c).count true := by
  simp [streamBits_framedWord]

theorem packetWord_cases {cfg : Cfg} {st : FieldRegs} {w : PacketWord} (h : w ∈ packetWords cfg st) :
    (∃ v, w = serialPacketWord v) ∨ ∃ c, w = bytePacketWord c := by
  simp only [packetWords, List.mem_cons, List.not_mem_nil, or_false] at h
  rcases h with h | h | h | h | h | h | h
  · exact .inl ⟨_, h⟩
  · exact .inl ⟨_, h⟩
  · exact .inl ⟨_, h⟩
  · exact .inr ⟨_, h⟩
  · exact .inr ⟨_, h⟩
  · exact .inr ⟨_, h⟩
  · exact .inr ⟨_, h⟩

/-- The parity input of a packet word has as many ones as its 9 framed bits. -/
theorem count_true_parityInput {cfg : Cfg} {st : FieldRegs} {w : PacketWord}
    (h : w ∈ packetWords cfg st) : w.parityInput.count true = (streamBits w.data).count true := by
  rcases packetWord_cases h with ⟨v, rfl⟩ | ⟨c, rfl⟩
  · rfl
  · exact (count_true_scratch12 c).trans (count_true_framedWord c).symm

/-! ### The obligations -/

/-- Settles O36: the parity input and the framed bits have the same ones. -/
theorem popcountParityIsThatOfTheFramedBits : Obligations.PopcountParityIsThatOfTheFramedBits := by
  intro cfg st w hw
  rw [parity_popcount, popcountParity_toNat, count_true_parityInput hw]

/-- Settles O28: the scratch word is the byte and four zeros, as a number and in stream order. -/
theorem scratchWordIsPaddedWithZeros : Obligations.ScratchWordIsPaddedWithZeros := by
  refine fun c => ⟨?value, count_true_scratch12 c⟩
  case value =>
    rw [scratch12, BitVec.toNat_append]
    simp [Nat.shiftLeft_eq]

/-- Settles O11: words 3 to 6 do not read the configuration, so the reset state's are closed terms. -/
theorem resetPacketWords : Obligations.ResetPacketWords := by
  intro cfg
  have hwords : (packetWords cfg State.reset.fields).drop 3 =
      [bytePacketWord 0x80, bytePacketWord 0x00, bytePacketWord 0x58, bytePacketWord 0x07] := rfl
  rw [hwords]
  exact ⟨rfl, rfl⟩

end Sys2Proof.Machine
end

section
/-! Sequences made of blocks of one length: where a block begins, and how many of a thing there are. -/

namespace Sys2Proof.Machine

/-- Dropping `n` places for each of `k` blocks of length `n` drops the first `k` blocks. -/
theorem drop_flatMap_of_length_eq {α β : Type} {n : Nat} {block : α → List β}
    (hlength : ∀ a, (block a).length = n) (as : List α) (k : Nat) :
    (as.flatMap block).drop (n * k) = (as.drop k).flatMap block := by
  induction k generalizing as with
  | zero => rfl
  | succ k ih =>
    cases as with
    | nil => simp
    | cons a as =>
      rw [Nat.mul_succ, Nat.add_comm, List.flatMap_cons, ← List.drop_drop,
        List.drop_left' (hlength a), ih, List.drop_succ_cons]

/-- The part of `m` places from place `i` of block `k`. -/
theorem take_drop_flatMap_of_length_eq {α β : Type} {n : Nat} {block : α → List β}
    (hlength : ∀ a, (block a).length = n) {as : List α} {k : Nat} {a : α} (hk : as[k]? = some a)
    {i m : Nat} (him : i + m ≤ n) :
    ((as.flatMap block).drop (n * k + i)).take m = ((block a).drop i).take m := by
  obtain ⟨hlt, rfl⟩ := List.getElem?_eq_some_iff.mp hk
  rw [← List.drop_drop, drop_flatMap_of_length_eq hlength, List.drop_eq_getElem_cons hlt,
    List.flatMap_cons, List.drop_append_of_le_length (by rw [hlength]; omega),
    List.take_append_of_le_length (by rw [List.length_drop, hlength]; omega)]

/-- With `c` of a kind in every block there are `c` times as many as blocks. -/
theorem count_flatMap_of_count_eq {α β : Type} [BEq β] {b : β} {c : Nat} {block : α → List β}
    (hcount : ∀ a, (block a).count b = c) (as : List α) :
    (as.flatMap block).count b = c * as.length := by
  induction as with
  | nil => rfl
  | cons a as ih =>
    rw [List.flatMap_cons, List.count_append, hcount, ih, List.length_cons, Nat.mul_succ, Nat.add_comm]

end Sys2Proof.Machine
end

section
/-! The framed stream (43_frame_builder.md R114, R115): its symbols by position, its counts, and the
parity of each frame. -/

namespace Sys2Proof.Machine

/-! ### One frame -/

theorem framePacketWord_eq (mode : ParityMode) (w : PacketWord) :
    framePacketWord mode w = frame w.data (parity mode w.parityInput) := rfl

@[simp] theorem sym_ne_start (b : Bool) : sym b ≠ .start := by cases b <;> decide

@[simp] theorem sym_ne_idle (b : Bool) : sym b ≠ .idle := by cases b <;> decide

theorem frame_start_iff (d : Word9) (p : Bool) {j : Nat} (hj : j < 22) :
    (frame d p)[j]? = some .start ↔ j = 0 := by
  rw [(frameIsTheTwentyTwoSymbols d p).1]
  interval_cases j <;> simp

theorem frame_idle_iff (d : Word9) (p : Bool) {j : Nat} (hj : j < 22) :
    (frame d p)[j]? = some .idle ↔ 13 ≤ j := by
  rw [(frameIsTheTwentyTwoSymbols d p).1]
  interval_cases j <;> simp

/-- The two guard symbols. -/
theorem frame_guard (d : Word9) (p : Bool) {j : Nat} (hj : j = 1 ∨ j = 12) :
    (frame d p)[j]? = some .one := by
  rw [(frameIsTheTwentyTwoSymbols d p).1]
  rcases hj with rfl | rfl <;> rfl

/-- The data and parity symbols of a frame. -/
theorem frame_data (d : Word9) (p : Bool) :
    ((frame d p).drop 2).take 10 = (streamBits d ++ [p]).map sym := by
  rw [(frameIsTheTwentyTwoSymbols d p).1, streamBits_word9]
  rfl

theorem count_one_map_sym (bs : Bits) : (bs.map sym).count .one = bs.count true := by
  induction bs with
  | nil => rfl
  | cons b bs ih => cases b <;> simp [ih]

theorem count_map_sym_eq_zero {s : Symbol} (h : ∀ b, sym b ≠ s) (bs : Bits) :
    (bs.map sym).count s = 0 := by
  simp [List.count_eq_zero, h]

theorem frame_count_start (d : Word9) (p : Bool) : (frame d p).count .start = 1 := by
  simp [frame, count_map_sym_eq_zero, List.count_replicate]

theorem frame_count_idle (d : Word9) (p : Bool) : (frame d p).count .idle = 9 := by
  simp [frame, count_map_sym_eq_zero, idleSymbols]

/-- Every symbol is one of the four of the alphabet (00_scope.md section 6.3). -/
theorem count_symbols (ss : List Symbol) :
    ss.count .start + ss.count .idle + (ss.count .zero + ss.count .one) = ss.length := by
  induction ss with
  | nil => rfl
  | cons s ss ih => cases s <;> simp <;> omega

/-! ### The framed stream -/

theorem packetWords_getElem?_of_lt (cfg : Cfg) (st : FieldRegs) {k : Nat} (hk : k < 7) :
    ∃ w, w ∈ packetWords cfg st ∧ (packetWords cfg st)[k]? = some w :=
  ⟨(packetWords cfg st)[k], List.getElem_mem _, List.getElem?_eq_getElem _⟩

/-- Any symbol of the stream is one of a frame. -/
theorem framedStream_symbol (cfg : Cfg) (st : FieldRegs) {n : Nat} (hn : n < 154) :
    ∃ d p, (framedStream cfg st)[n]? = (frame d p)[n % 22]? := by
  obtain ⟨w, -, hw⟩ := packetWords_getElem?_of_lt cfg st (k := n / 22) (by omega)
  have hsymbol := framedStream_getElem? cfg st (n / 22) (Nat.mod_lt n (by omega : 0 < 22))
  rw [Nat.div_add_mod, hw] at hsymbol
  exact ⟨_, _, hsymbol⟩

theorem framedStream_count_start (cfg : Cfg) (st : FieldRegs) : (framedStream cfg st).count .start = 7 := by
  have hframe (w : PacketWord) : (framePacketWord cfg.parityMode w).count .start = 1 :=
    frame_count_start w.data _
  rw [framedStream, count_flatMap_of_count_eq hframe, packetWords_length]

theorem framedStream_count_idle (cfg : Cfg) (st : FieldRegs) : (framedStream cfg st).count .idle = 63 := by
  have hframe (w : PacketWord) : (framePacketWord cfg.parityMode w).count .idle = 9 :=
    frame_count_idle w.data _
  rw [framedStream, count_flatMap_of_count_eq hframe, packetWords_length]

theorem framedStream_data (cfg : Cfg) (st : FieldRegs) {k : Nat} {w : PacketWord}
    (hw : (packetWords cfg st)[k]? = some w) :
    ((framedStream cfg st).drop (22 * k + 2)).take 10 =
      (streamBits w.data ++ [parity cfg.parityMode w.parityInput]).map sym := by
  rw [framedStream, take_drop_flatMap_of_length_eq (framePacketWord_length _) hw (by omega),
    framePacketWord_eq, frame_data]

/-! ### The obligation -/

/-- Settles O39: positions and counts frame by frame, the data symbols as what the others leave of 154;
in mode POPCOUNT the parity bit completes the ones of the framed bits to an even number. -/
theorem framedStreamInvariants : Obligations.FramedStreamInvariants := by
  intro cfg st
  have hstart := framedStream_count_start cfg st
  have hidle := framedStream_count_idle cfg st
  refine ⟨fun n hn => ?positions, hstart, hidle, ?dataSymbols, fun hmode k hk => ?evenOnes⟩
  case positions =>
    obtain ⟨d, p, hsymbol⟩ := framedStream_symbol cfg st hn
    have hj : n % 22 < 22 := Nat.mod_lt n (by omega)
    rw [hsymbol]
    exact ⟨frame_start_iff d p hj, frame_idle_iff d p hj, frame_guard d p⟩
  case dataSymbols =>
    have hall := count_symbols (framedStream cfg st)
    rw [framedStream_length] at hall
    omega
  case evenOnes =>
    obtain ⟨w, hmem, hw⟩ := packetWords_getElem?_of_lt cfg st hk
    rw [framedStream_data cfg st hw, count_one_map_sym, hmode, parity_popcount, List.count_append,
      count_true_singleton, popcountParity_toNat, count_true_parityInput hmem]
    omega

end Sys2Proof.Machine
end

section
/-! The line stream (44_line_encoder.md R126, R127): the place of every line bit, the bits of one frame,
and the lengths and counts of a whole packet. -/

namespace Sys2Proof.Machine

/-! ### Two line bits for every symbol -/

theorem lineStream_eq_flatMap (ss : List Symbol) : lineStream ss = ss.flatMap line := by
  induction ss with
  | nil => rfl
  | cons s ss ih => rw [lineStream, ih, List.flatMap_cons]

/-- Bit `h` of the code of symbol `n` (44_line_encoder.md R127). -/
theorem lineStream_getElem? (ss : List Symbol) (n : Nat) {h : Nat} (hh : h < 2) :
    (lineStream ss)[2 * n + h]? = ss[n]?.bind fun s => (line s)[h]? := by
  rw [lineStream_eq_flatMap, getElem?_flatMap_of_length_eq line_length _ _ hh]

theorem lineStream_flatMap {α : Type} (block : α → List Symbol) (as : List α) :
    lineStream (as.flatMap block) = as.flatMap fun a => lineStream (block a) := by
  induction as with
  | nil => rfl
  | cons a as ih => rw [List.flatMap_cons, lineStream_append, ih, List.flatMap_cons]

/-- A data symbol's code has one 1, whichever the bit. -/
theorem count_true_lineStream_map_sym (bs : Bits) :
    (lineStream (bs.map sym)).count true = bs.length := by
  induction bs with
  | nil => rfl
  | cons b bs ih => cases b <;> simp [lineStream, line, ih]

/-! ### One frame -/

/-- The 44 line bits of a frame: the codes of `S` and the guard, of the ten data and parity symbols, and
of the guard and the nine idle symbols. -/
theorem lineStream_frame (d : Word9) (p : Bool) :
    lineStream (frame d p) = [true, true, true, false] ++ lineStream ((streamBits d ++ [p]).map sym) ++
      ([true, false] ++ List.replicate 18 false) := by
  simp [frame, lineStream, line, idleSymbols]

/-- The line bits of a packet word. -/
def wordLineBits (mode : ParityMode) (w : PacketWord) : Bits := lineStream (framePacketWord mode w)

theorem wordLineBits_eq (mode : ParityMode) (w : PacketWord) :
    wordLineBits mode w = [true, true, true, false] ++
      lineStream ((streamBits w.data ++ [parity mode w.parityInput]).map sym) ++
        ([true, false] ++ List.replicate 18 false) :=
  lineStream_frame _ _

@[simp] theorem wordLineBits_length (mode : ParityMode) (w : PacketWord) :
    (wordLineBits mode w).length = 44 := by
  rw [wordLineBits, lineStream_length, framePacketWord_length]

/-- Fourteen: two of `S`, one of each guard, and one of each of the ten data and parity symbols. -/
theorem wordLineBits_count_true (mode : ParityMode) (w : PacketWord) :
    (wordLineBits mode w).count true = 14 := by
  rw [wordLineBits_eq, List.count_append, List.count_append, count_true_lineStream_map_sym,
    List.length_append, streamBits_length]
  rfl

/-! ### The whole packet -/

theorem lineStream_framedStream (cfg : Cfg) (st : FieldRegs) :
    lineStream (framedStream cfg st) = (packetWords cfg st).flatMap (wordLineBits cfg.parityMode) :=
  lineStream_flatMap _ _

theorem lineStream_framedStream_length (cfg : Cfg) (st : FieldRegs) :
    (lineStream (framedStream cfg st)).length = 308 := by
  rw [lineStream_length, framedStream_length]

theorem lineStream_framedStream_count_true (cfg : Cfg) (st : FieldRegs) :
    (lineStream (framedStream cfg st)).count true = 98 := by
  rw [lineStream_framedStream, count_flatMap_of_count_eq (wordLineBits_count_true _), packetWords_length]

/-- The line bits of word `k` begin at stream bit `44 k`. -/
theorem lineStream_framedStream_part (cfg : Cfg) (st : FieldRegs) {k : Nat} {w : PacketWord}
    (hw : (packetWords cfg st)[k]? = some w) {i m : Nat} (him : i + m ≤ 44) :
    ((lineStream (framedStream cfg st)).drop (44 * k + i)).take m =
      ((wordLineBits cfg.parityMode w).drop i).take m := by
  rw [lineStream_framedStream, take_drop_flatMap_of_length_eq (wordLineBits_length _) hw him]

theorem encodePacket_length (cfg : Cfg) (st : FieldRegs) : (encodePacket cfg st).length = 39 :=
  bytesOfBits_length 39 _ (by simp [padBits])

/-! ### The obligations -/

/-- Settles O42: every symbol has two line bits and every frame 44, of which the ends are constant. -/
theorem lineBitIndex : Obligations.LineBitIndex := by
  refine ⟨fun ss n h x hh hx => ?codeBit, fun cfg st k hk => ?frameEnds⟩
  case codeBit => rw [lineStream_getElem? ss n hh, hx, Option.bind_some]
  case frameEnds =>
    obtain ⟨w, -, hw⟩ := packetWords_getElem?_of_lt cfg st hk
    have hfirst := lineStream_framedStream_part cfg st hw (i := 0) (m := 4) (by omega)
    have hlast := lineStream_framedStream_part cfg st hw (i := 24) (m := 20) (by omega)
    rw [wordLineBits_eq] at hfirst hlast
    exact ⟨hfirst, hlast.trans (by rw [List.drop_left' (by simp)]; rfl)⟩

/-- Settles O43: seven words of 44 line bits with 14 ones each; with the padding they fill 39 bytes. -/
theorem streamAndBufferLengths : Obligations.StreamAndBufferLengths := by
  intro cfg st
  have hlength := lineStream_framedStream_length cfg st
  have hones := lineStream_framedStream_count_true cfg st
  have hall := List.count_true_add_count_false (l := lineStream (framedStream cfg st))
  exact ⟨hlength, hones, by omega, encodePacket_length cfg st⟩

end Sys2Proof.Machine
end

section
/-! The transmit buffer: which stream bit each of its bits and nibbles holds (20_memory.md R32 to R35),
and what of the packet can be read back from it. -/

namespace Sys2Proof.Machine

/-! ### Bytes and nibbles in stream order -/

theorem streamBits_injective {n : Nat} : Function.Injective (streamBits (n := n)) := by
  intro v w h
  refine BitVec.eq_of_getMsbD_eq fun i hi => ?_
  have hbit := congrArg (·[i]?) h
  simpa only [streamBits_getElem? _ i hi, Option.some.injEq] using hbit

/-- Bit `j` of byte `i`, most significant first (20_memory.md R32). -/
theorem bitsOfBytes_getElem? (bytes : List Byte) (i : Nat) {j : Nat} (hj : j < 8) :
    (bitsOfBytes bytes)[8 * i + j]? = bytes[i]?.map fun x => x.getLsbD (7 - j) := by
  rw [bitsOfBytes, getElem?_flatMap_of_length_eq streamBits_length _ _ hj]
  cases bytes[i]? with
  | none => rfl
  | some x =>
    rw [Option.bind_some, streamBits_getElem? x j hj, BitVec.getMsbD_eq_getLsbD]
    simp [hj]

/-- A byte's bits are those of its high half and then those of its low half. -/
theorem streamBits_byte (c : Byte) :
    streamBits c = streamBits (c.extractLsb' 4 4) ++ streamBits (c.extractLsb' 0 4) := by
  rw [← streamBits_append, BitVec.extractLsb'_append_extractLsb'_eq_extractLsb' (by omega)]
  exact congrArg streamBits (slice_whole c).symm

/-- Nibble `n` holds the stream bits `4 n` to `4 n + 3` (20_memory.md R34). -/
theorem streamBits_bufferNibble {buf : List Byte} {n : Nat} (hn : n < 2 * buf.length) :
    streamBits (bufferNibble buf n) = ((bitsOfBytes buf).drop (4 * n)).take 4 := by
  have hbyte : buf[n / 2]? = some (buf.getD (n / 2) 0) := by
    have hlt : n / 2 < buf.length := by omega
    simp [hlt]
  have hpart {i : Nat} (hi : i + 4 ≤ 8) : ((bitsOfBytes buf).drop (8 * (n / 2) + i)).take 4 =
      ((streamBits (buf.getD (n / 2) 0)).drop i).take 4 := by
    rw [bitsOfBytes, take_drop_flatMap_of_length_eq streamBits_length hbyte hi]
  rcases Nat.mod_two_eq_zero_or_one n with heven | hodd
  · have hindex : 4 * n = 8 * (n / 2) + 0 := by omega
    rw [bufferNibble, if_pos heven, hindex, hpart (by omega), streamBits_byte, List.drop_zero,
      List.take_left' (streamBits_length _)]
  · have hindex : 4 * n = 8 * (n / 2) + 4 := by omega
    have hne : ¬ n % 2 = 0 := by omega
    rw [bufferNibble, if_neg hne, hindex, hpart (by omega), streamBits_byte,
      List.drop_left' (streamBits_length _), List.take_of_length_le (by simp)]

/-! ### Packing -/

theorem bitsOfBytes_pack {bs : Bits} (h : bs.length = 308) : bitsOfBytes (pack bs) = bs ++ padBits :=
  bitsOfBytes_bytesOfBits 39 _ (by simp [padBits, h])

/-- Settles O44: the radio's reading of the packed bytes is the stream and the padding. -/
theorem packPutsEachBitInItsPlace : Obligations.PackPutsEachBitInItsPlace := by
  intro bs hbs
  have hlength : (pack bs).length = 39 := bytesOfBits_length 39 _ (by simp [padBits, hbs])
  have hplace (b : Nat) : ((pack bs)[b / 8]?).map (fun x => x.getLsbD (7 - b % 8)) = (bs ++ padBits)[b]? := by
    have hbit := bitsOfBytes_getElem? (pack bs) (b / 8) (Nat.mod_lt b (by omega : 0 < 8))
    rwa [Nat.div_add_mod, bitsOfBytes_pack hbs, eq_comm] at hbit
  refine ⟨hlength, fun b hb => ?stream, ?padding⟩
  case stream => rw [hplace, List.getElem?_append_left (by omega)]
  case padding =>
    have hzeros : padBits = List.replicate 4 false := rfl
    have hbyte : (pack bs)[38]? = some ((pack bs).getD 38 0) := by simp [hlength]
    refine BitVec.eq_of_getLsbD_eq fun i hi => ?_
    have hpad := hplace (311 - i)
    rw [show (311 - i) / 8 = 38 by omega, show 7 - (311 - i) % 8 = i by omega, hbyte,
      List.getElem?_append_right (by omega), hzeros, List.getElem?_replicate, if_pos (by omega)] at hpad
    simpa [hi] using hpad

/-! ### Reading back -/

/-- Settles O47: the padding is the code of two idle symbols, and the decoder undoes the line code. -/
theorem bufferDecodesToTheFramedStream : Obligations.BufferDecodesToTheFramedStream := by
  intro cfg st
  have hpad : padBits = lineStream [.idle, .idle] := rfl
  rw [bitsOfBytes_encodePacket, hpad, ← lineStream_append, unlineStream_lineStream]

theorem sym_injective : Function.Injective sym := by
  intro a b
  cases a <;> cases b <;> decide

/-- The framed stream tells the nine framed bits of every word. -/
theorem packetData_eq_of_framedStream_eq {cfg cfg' : Cfg} {st st' : FieldRegs}
    (h : framedStream cfg st = framedStream cfg' st') {k : Nat} {w w' : PacketWord}
    (hw : (packetWords cfg st)[k]? = some w) (hw' : (packetWords cfg' st')[k]? = some w') :
    w.data = w'.data := by
  have hdata := framedStream_data cfg st hw
  rw [h, framedStream_data cfg' st' hw'] at hdata
  have hbits := List.map_injective_iff.mpr sym_injective hdata
  exact (streamBits_injective (List.append_inj_left hbits (by simp))).symm

theorem append_zero_injective {c c' : Byte} (h : c ++ 0#1 = c' ++ 0#1) : c = c' := by
  have hslice := congrArg (BitVec.extractLsb' 1 8) h
  rw [slice_append_high _ _ (by omega), slice_append_high _ _ (by omega)] at hslice
  exact (slice_whole c).symm.trans (hslice.trans (slice_whole c'))

/-- Settles O48: the buffer decodes to the framed stream, which tells the framed bits of every word; the
first five words are the serial words and the two command words, which tell the fields. -/
theorem bufferDeterminesStateAndSerials : Obligations.BufferDeterminesStateAndSerials := by
  intro cfg cfg' st st' h
  have hstream : framedStream cfg st = framedStream cfg' st' := by
    have hdecoded := bufferDecodesToTheFramedStream cfg st
    rw [h, bufferDecodesToTheFramedStream cfg' st'] at hdecoded
    exact (List.append_cancel_right hdecoded).symm
  have hcmd1 : cmd1 st ++ 0#1 = cmd1 st' ++ 0#1 := by
    simpa using packetData_eq_of_framedStream_eq hstream (k := 3) rfl rfl
  have hcmd2 : cmd2 st ++ 0#1 = cmd2 st' ++ 0#1 := by
    simpa using packetData_eq_of_framedStream_eq hstream (k := 4) rfl rfl
  exact ⟨fields_eq_of_cmds_eq (append_zero_injective hcmd1) (append_zero_injective hcmd2),
    packetData_eq_of_framedStream_eq hstream (k := 0) rfl rfl,
    packetData_eq_of_framedStream_eq hstream (k := 1) rfl rfl,
    packetData_eq_of_framedStream_eq hstream (k := 2) rfl rfl⟩

/-! ### What the parity mode can touch -/

/-- Only symbol 11 of a frame is the parity symbol (43_frame_builder.md R112). -/
theorem frame_getElem?_of_ne_parity (d : Word9) (p p' : Bool) {j : Nat} (hj : j ≠ 11) :
    (frame d p)[j]? = (frame d p')[j]? := by
  have hset : frame d p = (frame d p').set 11 (sym p) := by
    rw [(frameIsTheTwentyTwoSymbols d p).1, (frameIsTheTwentyTwoSymbols d p').1]
    rfl
  rw [hset, List.getElem?_set_ne (Ne.symm hj)]

theorem framedStream_withMode (cfg : Cfg) (mode : ParityMode) (st : FieldRegs) {n : Nat}
    (hn : n % 22 ≠ 11) :
    (framedStream { cfg with parityMode := mode } st)[n]? = (framedStream cfg st)[n]? := by
  have hj : n % 22 < 22 := Nat.mod_lt n (by omega)
  have hsame (w : PacketWord) : (framePacketWord mode w)[n % 22]? =
      (framePacketWord cfg.parityMode w)[n % 22]? := frame_getElem?_of_ne_parity _ _ _ hn
  have hsymbol := framedStream_getElem? cfg st (n / 22) hj
  have hsymbol' := framedStream_getElem? { cfg with parityMode := mode } st (n / 22) hj
  rw [Nat.div_add_mod] at hsymbol hsymbol'
  rw [hsymbol, hsymbol']
  simp only [hsame]
  rfl

/-- Settles O40: a line bit outside the two of the parity symbol is of a symbol the mode does not touch,
or of the padding. -/
theorem parityModeTouchesOnlyParitySymbols : Obligations.ParityModeTouchesOnlyParitySymbols := by
  intro cfg mode st b h22 h23
  rw [bitsOfBytes_encodePacket, bitsOfBytes_encodePacket]
  by_cases hb : b < 308
  case pos =>
    rw [List.getElem?_append_left (by rwa [lineStream_framedStream_length]),
      List.getElem?_append_left (by rwa [lineStream_framedStream_length]), ← Nat.div_add_mod b 2,
      lineStream_getElem? _ _ (Nat.mod_lt b (by omega)), lineStream_getElem? _ _ (Nat.mod_lt b (by omega)),
      framedStream_withMode cfg mode st (by omega)]
  case neg =>
    rw [List.getElem?_append_right (by rw [lineStream_framedStream_length]; omega),
      List.getElem?_append_right (by rw [lineStream_framedStream_length]; omega),
      lineStream_framedStream_length, lineStream_framedStream_length]

/-! ### The nibbles of a word -/

theorem streamBits_lineCode (x : Bool) : streamBits (lineCode x) = [x, !x] := by cases x <;> rfl

theorem streamBits_lineCode_append (x y : Bool) :
    streamBits (lineCode x ++ lineCode y) = [x, !x, y, !y] := by
  rw [streamBits_append, streamBits_lineCode, streamBits_lineCode]
  rfl

theorem lineStream_map_sym (bs : Bits) : lineStream (bs.map sym) = bs.flatMap fun b => [b, !b] := by
  rw [lineStream_eq_flatMap, List.flatMap_map]
  simp only [line_sym]

/-- Word `k` has the nibbles `11 k` to `11 k + 10` of the buffer (20_memory.md R35). -/
theorem streamBits_bufferNibble_word (cfg : Cfg) (st : FieldRegs) {k : Nat} {w : PacketWord}
    (hw : (packetWords cfg st)[k]? = some w) {m : Nat} (hm : m < 11) :
    streamBits (bufferNibble (encodePacket cfg st) (11 * k + m)) =
      ((wordLineBits cfg.parityMode w).drop (4 * m)).take 4 := by
  have hk : k < 7 := (List.getElem?_eq_some_iff.mp hw).1
  have hlength := lineStream_framedStream_length cfg st
  rw [streamBits_bufferNibble (by rw [encodePacket_length]; omega), bitsOfBytes_encodePacket,
    show 4 * (11 * k + m) = 44 * k + 4 * m by omega, List.drop_append_of_le_length (by omega),
    List.take_append_of_le_length (by rw [List.length_drop]; omega),
    lineStream_framedStream_part cfg st hw (by omega)]

/-- Settles O46: nibble by nibble, the four line bits of the word are the bits of the nibble named. -/
theorem bufferNibblesOfEachWord : Obligations.BufferNibblesOfEachWord := by
  refine fun cfg st => ⟨fun k w hw => ?word, ?padding⟩
  case word =>
    have nibbleIs {m : Nat} (hm : m < 11) {v : BitVec 4}
        (h : ((wordLineBits cfg.parityMode w).drop (4 * m)).take 4 = streamBits v) :
        bufferNibble (encodePacket cfg st) (11 * k + m) = v :=
      streamBits_injective ((streamBits_bufferNibble_word cfg st hw hm).trans h)
    have codePair {m : Nat} (hm : m < 11) {x y : Bool}
        (h : ((wordLineBits cfg.parityMode w).drop (4 * m)).take 4 = [x, !x, y, !y]) :
        bufferNibble (encodePacket cfg st) (11 * k + m) = lineCode x ++ lineCode y :=
      nibbleIs hm (h.trans (streamBits_lineCode_append x y).symm)
    rw [wordLineBits_eq, lineStream_map_sym] at nibbleIs codePair
    exact ⟨nibbleIs (by omega) rfl, codePair (by omega) rfl, codePair (by omega) rfl,
      codePair (by omega) rfl, codePair (by omega) rfl, codePair (by omega) rfl, nibbleIs (by omega) rfl,
      nibbleIs (by omega) rfl, nibbleIs (by omega) rfl, nibbleIs (by omega) rfl, nibbleIs (by omega) rfl⟩
  case padding =>
    refine streamBits_injective ?_
    rw [streamBits_bufferNibble (by rw [encodePacket_length]; omega), bitsOfBytes_encodePacket,
      List.drop_left' (lineStream_framedStream_length cfg st)]
    rfl

/-! ### The radio's side -/

/-- Settles O49: a buffer has 39 bytes, so the addresses with a byte are those that the read accepts. -/
theorem txbufHasThirtyNineByteAddresses : Obligations.TxbufHasThirtyNineByteAddresses := by
  intro cfg st addr width
  have hlength := encodePacket_length cfg st
  rcases txbufRead_cases (encodePacket cfg st) addr width with ⟨hwidth, haddr, hread⟩ | ⟨hnone, hread⟩
  case inl =>
    have hlt : addr < 39 := haddr
    exact ⟨fun _ _ => ⟨_, by simp [hlength, hlt], hread⟩, fun h => absurd ⟨hwidth, by omega⟩ h⟩
  case inr =>
    exact ⟨fun hwidth haddr => absurd ⟨hwidth, Nat.lt_succ_of_le haddr⟩ hnone, fun _ => hread⟩

/-- Repetitions of one sequence: place `b` holds what the sequence has at the remainder. -/
theorem getElem?_flatten_replicate {α : Type} (as : List α) (count : Nat) {b : Nat}
    (hb : b < as.length * count) :
    (List.replicate count as).flatten[b]? = as[b % as.length]? := by
  have hpos : 0 < as.length := Nat.pos_of_mul_pos_right (Nat.zero_lt_of_lt hb)
  have hrepeat : (List.replicate count as).flatten = (List.replicate count ()).flatMap fun _ => as := by
    rw [List.flatMap_replicate]
  have hblock := getElem?_flatMap_of_length_eq (block := fun _ : Unit => as) (fun _ => rfl)
    (List.replicate count ()) (b / as.length) (Nat.mod_lt b hpos)
  rw [Nat.div_add_mod] at hblock
  rw [hrepeat, hblock, List.getElem?_replicate, if_pos (Nat.div_lt_of_lt_mul hb), Option.bind_some]

/-- The five emissions and the four gaps between them (45_transmitter_interface.md R136, R140). -/
theorem onAir_repeatCount (n : Nat) (buf : List Byte) :
    onAir n ⟨buf, repeatCount⟩ = [.emission (emission buf), .gap (Config.emissionGap n 0),
      .emission (emission buf), .gap (Config.emissionGap n 1), .emission (emission buf),
      .gap (Config.emissionGap n 2), .emission (emission buf), .gap (Config.emissionGap n 3),
      .emission (emission buf)] := rfl

/-- Settles O50: the emitted bits are five times those of the buffer, which are the padded stream. -/
theorem handOffOnTheAir : Obligations.HandOffOnTheAir := by
  intro cfg st n bits events
  have hbits : bits = lineStream (framedStream cfg st) ++ padBits := bitsOfBytes_encodePacket cfg st
  have hlength : bits.length = 312 := by
    rw [hbits, List.length_append, lineStream_framedStream_length]
    rfl
  have hemitted : emittedBits events = (List.replicate 5 bits).flatten := emittedBits_onAir n _
  refine ⟨hbits, ?firstBits, (bufferEndsInTwentyTwoZeros cfg st).1, onAir_repeatCount n _, ?length,
    fun b hb => ?repetition⟩
  case firstBits =>
    have hfirst : (lineStream (framedStream cfg st)).take 4 = [true, true, true, false] :=
      (lineBitIndex.2 cfg st 0 (by omega)).1
    have hshort : 4 ≤ (lineStream (framedStream cfg st)).length := by
      rw [lineStream_framedStream_length]
      omega
    calc bits.take 2
        = (bits.take 4).take 2 := by rw [List.take_take]; rfl
      _ = [true, true, true, false].take 2 := by
          rw [hbits, List.take_append_of_le_length hshort, hfirst]
  case length => simp [hemitted, hlength]
  case repetition =>
    rw [hemitted, getElem?_flatten_replicate bits 5 (by omega), hlength]

end Sys2Proof.Machine
end
